-- ==== Sys2Proof/Word.lean ====
section
/-! DEFINITION. The bit vectors of the block: bytes on the wire, analog slots, port command words. -/

namespace Sys2Proof

/-- A byte of the wire, or one discrete group (10_state.md R14, 30_encoding.md R50). -/
abbrev Byte := BitVec 8

/-- The content of one analog slot, 10 bits (10_state.md R11, R12). -/
abbrev Slot := BitVec 10

/-- A port command as one word: `op[33:32] addr[31:16] data[15:0]` (30_encoding.md R63). -/
abbrev Command := BitVec 34

end Sys2Proof
end

