-- ==== Sys2Proof/Config.lean ====
section
/-! DEFINITION. What an implementation fixes (00_scope.md R8) and the one value the spec leaves free. -/

namespace Sys2Proof.Config

/-- `PORT_ADDR_W` (00_scope.md R8): the width of the port's signed address operand. Log 10. -/
abbrev portAddrW : Nat := 16

/-- `PORT_DATA_W` (00_scope.md R8): the width of the port's unsigned data operand. Log 10. -/
abbrev portDataW : Nat := 16

/-- A FREE VALUE: whether the wire side goes first at the `n`-th choice between two pending operations.
20_memory.md R42 leaves the order to the schedule, so nothing is known of this function. Log 2 (safe). -/
opaque wireFirst : Nat → Bool

end Sys2Proof.Config
end

