-- ==== Sys2Proof/Syntax.lean ====
section
/-! DEFINITION. The operations of the block: one constructor per row of spec/opcode_table.json, the target a
request byte decodes to, and the two kinds of code. -/

namespace Sys2Proof

/-- One operation of the block (00_scope.md R1, R9). Port operands are integers, as 40_store_ops.md writes them
(30_encoding.md R63, 00_scope.md R8: the port's widths change no result). -/
inductive Instr where
  /-- `RDA idx`: analog poll of slot `idx` (42_responder.md R112). -/
  | rda (idx : Fin 128)
  /-- `RDD.INVALID`: a discrete request whose field `g` is 48..63 (42_responder.md R114). -/
  | rddInvalid (g : BitVec 6) (sw : Bool)
  /-- `RDD g, sw`: discrete poll of group `g` (42_responder.md R113). -/
  | rdd (g : Fin 48) (sw : Bool)
  /-- `SETA address, value` (40_store_ops.md R70). -/
  | seta (address : Int) (value : Nat)
  /-- `GETA address` (40_store_ops.md R71). -/
  | geta (address : Int)
  /-- `SETDB bitAddr, on` (40_store_ops.md R73). -/
  | setdb (bitAddr : Int) (on : Bool)
  /-- `GETDG group` (40_store_ops.md R74). -/
  | getdg (group : Int)
deriving DecidableEq, Repr

/-- The decoded request (41_codec.md R90). -/
inductive Target where
  /-- An analog request for slot `idx`. -/
  | analog (idx : Fin 128)
  /-- A discrete request for an existing group. -/
  | discrete (g : Fin 48) (sw : Bool)
  /-- A discrete request whose field is 48..63; the whole 6-bit field is kept. -/
  | invalid (g : BitVec 6) (sw : Bool)
deriving DecidableEq, Repr

/-- The two sides from which operations come (00_scope.md R6). -/
inductive Side where
  /-- Request bytes from the transport. -/
  | wire
  /-- Port commands from the host. -/
  | port
deriving DecidableEq, Repr

/-- The code of an operation: a request byte (30_encoding.md R50) or a port command word (R63). -/
inductive Code where
  /-- One request byte. -/
  | request (b : Byte)
  /-- One port command word. -/
  | command (w : Command)
deriving DecidableEq, Repr

/-- The side an operation belongs to (10_state.md R26). -/
def Instr.side : Instr → Side
  | .rda _ => .wire
  | .rddInvalid _ _ => .wire
  | .rdd _ _ => .wire
  | .seta _ _ => .port
  | .geta _ => .port
  | .setdb _ _ => .port
  | .getdg _ => .port

/-- The operation a target stands for (42_responder.md R112, R113, R114). -/
def Target.toInstr : Target → Instr
  | .analog idx => .rda idx
  | .discrete g sw => .rdd g sw
  | .invalid g sw => .rddInvalid g sw

end Sys2Proof
end

