-- ==== Sys2Proof/WellFormed.lean ====
section
/-! DEFINITION. Which operations have a code: operands that fit their fields. -/

namespace Sys2Proof

/-- The integer fits `PORT_ADDR_W` signed bits (50_interfaces.md R135). -/
def fitsPortAddr (a : Int) : Bool :=
  decide (-(2 ^ (Config.portAddrW - 1)) ≤ a) && decide (a < 2 ^ (Config.portAddrW - 1))

/-- The natural fits `PORT_DATA_W` bits (00_scope.md R8). -/
def fitsPortData (v : Nat) : Bool := decide (v < 2 ^ Config.portDataW)

/-- The operation can be presented to the block. The wire operands 0..127 and 0..47 are bounded by their
types; an illegal request's field is 48..63 (41_codec.md R90); a host refuses what the port cannot carry
(50_interfaces.md R135). -/
def Instr.wellFormed : Instr → Bool
  | .rda _ => true
  | .rddInvalid g _ => decide (48 ≤ g.toNat)
  | .rdd _ _ => true
  | .seta address value => fitsPortAddr address && fitsPortData value
  | .geta address => fitsPortAddr address
  | .setdb bitAddr _ => fitsPortAddr bitAddr
  | .getdg group => fitsPortAddr group

end Sys2Proof
end

