-- ==== Sys2Proof/Decode.lean ====
section
/-! DEFINITION. The decoder of request bytes and port command words, and after it the encoder. Decoding is
total on everything the block can receive; a number that is neither a byte nor a command word is rejected by
name. -/

namespace Sys2Proof

/-! ## Decoding -/

/-- `idx = b & 0x7F`, the slot index of an analog request (30_encoding.md R52, R54): no 1 is subtracted. -/
def requestIdx (b : Byte) : Fin 128 := Fin.ofNat 128 (b &&& 0x7F#8).toNat

/-- `g = b & 0x3F`, the 6-bit group field of a discrete request (30_encoding.md R53). -/
def requestGroupField (b : Byte) : BitVec 6 := (b &&& 0x3F#8).truncate 6

/-- `sw = b[6]`, the switcher bit of a discrete request (30_encoding.md R53). -/
def requestSw (b : Byte) : Bool := b.getLsbD 6

/-- `decodeRequest` (41_codec.md R90; the opcode map is 30_encoding.md R55). -/
def decodeRequest (b : Byte) : Target :=
  if b.getLsbD 7 then .analog (requestIdx b)
  else if h : (requestGroupField b).toNat < 48 then .discrete ⟨(requestGroupField b).toNat, h⟩ (requestSw b)
  else .invalid (requestGroupField b) (requestSw b)

/-- The `op` field of a port command (30_encoding.md R63). -/
def commandOp (w : Command) : BitVec 2 := w.extractLsb' 32 2

/-- The `addr` field of a port command, read as a two's complement signed integer (30_encoding.md R63). -/
def commandAddr (w : Command) : Int := (w.extractLsb' 16 16).toInt

/-- The `data` field of a port command, unsigned (30_encoding.md R63). -/
def commandData (w : Command) : BitVec 16 := w.extractLsb' 0 16

/-- The operation a port command word stands for; all four values of `op` are used (30_encoding.md R63).
`SETDB` takes `on` from `data[0]` alone; `GETA` and `GETDG` ignore `data`. -/
def decodeCommand (w : Command) : Instr :=
  if commandOp w = 0#2 then .seta (commandAddr w) (commandData w).toNat
  else if commandOp w = 1#2 then .geta (commandAddr w)
  else if commandOp w = 2#2 then .setdb (commandAddr w) ((commandData w).getLsbD 0)
  else .getdg (commandAddr w)

/-- The operation a code stands for. -/
def decode : Code → Instr
  | .request b => (decodeRequest b).toInstr
  | .command w => decodeCommand w

/-- Why a number is no code. -/
inductive DecodeRefusal where
  /-- No bits at all: there is no empty request and no empty command. -/
  | noBits
  /-- A number of 8 bits or fewer was announced and is not below 2^8. -/
  | notAByte
  /-- The number is not below 2^34, so it is no port command word (30_encoding.md R63). -/
  | notACommand
deriving DecidableEq, Repr

/-- The code that `nbits` bits with value `w` are: one byte is a request, a longer word a port command, whose
bits above bit 33 are zero (log 11). -/
def codeOfBits (nbits w : Nat) : Except DecodeRefusal Code :=
  if nbits = 0 then .error .noBits
  else if nbits ≤ 8 then
    if w < 2 ^ 8 then .ok (.request (BitVec.ofNat 8 w)) else .error .notAByte
  else if w < 2 ^ 34 then .ok (.command (BitVec.ofNat 34 w)) else .error .notACommand

/-- The instruction the decoder reads from the bits of an opcode-table row. -/
def decodeTableWord (nbits w : Nat) : Option Instr :=
  match codeOfBits nbits w with
  | .ok c => some (decode c)
  | .error _ => none

/-! ## Encoding -/

/-- The byte of a discrete request: class 0, `sw`, the 6-bit field (30_encoding.md R53). -/
def discreteRequest (g : BitVec 6) (sw : Bool) : Byte := 0#1 ++ BitVec.ofBool sw ++ g

/-- The byte of an analog request: class 1 and the 7-bit index (30_encoding.md R52). -/
def analogRequest (idx : Fin 128) : Byte := 1#1 ++ BitVec.ofNat 7 idx.val

/-- A port command word from its three fields (30_encoding.md R63). -/
def commandWord (op : BitVec 2) (addr : Int) (data : BitVec 16) : Command :=
  op ++ BitVec.ofInt 16 addr ++ data

/-- The code of an operation. The data field that `GETA` and `GETDG` ignore is written as zero (log 14). -/
def encode : Instr → Code
  | .rda idx => .request (analogRequest idx)
  | .rddInvalid g sw => .request (discreteRequest g sw)
  | .rdd g sw => .request (discreteRequest (BitVec.ofNat 6 g.val) sw)
  | .seta address value => .command (commandWord 0#2 address (BitVec.ofNat 16 value))
  | .geta address => .command (commandWord 1#2 address 0#16)
  | .setdb bitAddr on => .command (commandWord 2#2 bitAddr (if on then 1#16 else 0#16))
  | .getdg group => .command (commandWord 3#2 group 0#16)

/-- What a sender presents: the code of a well-formed operation, nothing for an operand that its field cannot
carry (50_interfaces.md R135: the host must refuse it itself). -/
def Instr.toCode? (i : Instr) : Option Code := if i.wellFormed then some (encode i) else none

/-- The port command word that a code is, if it is one (30_encoding.md R63). -/
def Code.command? : Code → Option Command
  | .request _ => none
  | .command w => some w

end Sys2Proof
end

