-- ==== Sys2Proof/Machine/State.lean ====
section
/-! DEFINITION. The machine's state as plain data, the reasons a step can stop, and the state after reset. -/

namespace Sys2Proof.Machine

/-- The Responder's two states (10_state.md R17). -/
inductive Phase where
  /-- Blocked on transport receive; no request is held. -/
  | waitByte
  /-- Exactly one request is held and its reply is being produced. -/
  | dispatch
deriving DecidableEq, Repr

/-- The three causes (60_exceptions.md R151); `Cause.code` gives the codes. -/
inductive Cause where
  /-- `SETA` or `GETA` with an address outside 1..128. -/
  | analogAddressRange
  /-- `SETDB` with a bit address outside 1..384. -/
  | discreteBitAddressRange
  /-- `GETDG` with a group outside 0..47 (a port error), or a request for group 48..63 (the wire fault). -/
  | discreteGroupRange
deriving DecidableEq, Repr

/-- The answer to one port command (50_interfaces.md R130). An error carries no data (60_exceptions.md R152). -/
inductive PortResult where
  /-- A write took effect. -/
  | ok
  /-- The value read: 10 bits from `GETA`, 8 bits below two zero bits from `GETDG` (50_interfaces.md R135). -/
  | data (v : Slot)
  /-- The command was refused and nothing changed. -/
  | err (cause : Cause)
deriving DecidableEq, Repr

/-- Why the machine stops. -/
inductive Fault where
  /-- Raised by every operation and by the step while FAULT = 1 and no reset is pending: such a state "has no
  step except reset" (60_exceptions.md R154). Safe: nothing can be proved of what follows (log 5, log 6). -/
  | blockFaulted
deriving DecidableEq, Repr

/-- Why an operation has no meaning. -/
inductive Refusal where
  /-- An instruction of the opcode table with no meaning in the model. Raised by no arm: all are modelled.
  Safe. -/
  | notModelled (mnemonic : String)
deriving DecidableEq, Repr

/-- The state. First the block's own state (10_state.md R10), then its transaction in progress (R17, R19),
then its outputs (50_interfaces.md R130, R139), then what the environment holds for it (log 2, 3, 4). -/
structure State where
  /-- The analog register file (10_state.md R11). -/
  A : Vector Slot 128
  /-- The discrete register file (10_state.md R14). -/
  D : Vector Byte 48
  /-- The Responder's sequencing state (10_state.md R17). -/
  phase : Phase
  /-- FAULT, sticky (10_state.md R21). -/
  fault : Bool
  /-- FCAUSE (10_state.md R21). -/
  fcause : BitVec 2
  /-- The request byte held during Dispatch (10_state.md R17, R19). -/
  req : Option Byte
  /-- The reply bytes not yet handed to the transport, first byte first (10_state.md R19). -/
  unsent : List Byte
  /-- The output `sw_obs` (50_interfaces.md R139). -/
  swObs : Bool
  /-- The transmit stream, first byte first (00_scope.md section 5, 42_responder.md R116). -/
  tx : List Byte
  /-- The port results delivered, first result first (50_interfaces.md R130). -/
  results : List PortResult
  /-- INPUT: request bytes that stay with the transport, oldest first (42_responder.md R111). -/
  rx : List Byte
  /-- INPUT: port commands that stay with the host, oldest first (60_exceptions.md R154). -/
  port : List Command
  /-- INPUT: a `Reset` event is pending (70_reset_and_hazards.md R170). -/
  resetReq : Bool
  /-- INPUT: how many more bytes the transport takes; `none`: as many as are offered (42_responder.md R120). -/
  txRoom : Option Nat
  /-- How many choices between the two sides have been made (20_memory.md R42). -/
  turn : Nat
deriving DecidableEq, Repr

/-- The machine right after reset (10_state.md R23, R24; 70_reset_and_hazards.md R170), with no input pending
and a transport that takes every byte (log 3, log 4). -/
def State.reset : State where
  A := Vector.replicate 128 0#10
  D := Vector.replicate 48 0#8
  phase := .waitByte
  fault := false
  fcause := 0#2
  req := none
  unsent := []
  swObs := false
  tx := []
  results := []
  rx := []
  port := []
  resetReq := false
  txRoom := none
  turn := 0

end Sys2Proof.Machine
end

