-- ==== Sys2Proof/Machine/Codec.lean ====
section
/-! DEFINITION. The ProtocolCodec's two encoders, pure functions (41_codec.md R96), and the requester's
decoder. The request decoder `decodeRequest` stands in Sys2Proof/Decode.lean. -/

namespace Sys2Proof.Machine

/-- `encodeAnalog` (41_codec.md R91): `(low6, high4)`. -/
def encodeAnalog (value : Slot) : Byte × Byte :=
  (0xC0#8 ||| (value.setWidth 8 &&& 0x3F#8), (value >>> 6).setWidth 8 &&& 0x0F#8)

/-- `decodeAnalog` (41_codec.md R92), the requester's inverse; not part of the block. -/
def decodeAnalog (low6 high4 : Byte) : Slot :=
  ((high4 &&& 0x0F#8).setWidth 10 <<< 6) ||| (low6 &&& 0x3F#8).setWidth 10

/-- `encodeDiscrete` (41_codec.md R94): the complement, in exactly 8 bits. -/
def encodeDiscrete (raw : Byte) : Byte := ~~~raw

/-- The analog reply, low6 first (30_encoding.md R59, 20_memory.md R37). -/
def analogReply (value : Slot) : List Byte := [(encodeAnalog value).1, (encodeAnalog value).2]

/-- The discrete reply, one byte (30_encoding.md R59). -/
def discreteReply (raw : Byte) : List Byte := [encodeDiscrete raw]

end Sys2Proof.Machine
end

