-- ==== Sys2Proof/Machine/Flags.lean ====
section
/-! DEFINITION. The status the block shows. It has no condition codes (10_state.md R22): only cause codes, the
fault pair, which the fields `fault` and `fcause` show as they are (50_interfaces.md R140), and the outputs of the
signal binding (R134, R135). -/

namespace Sys2Proof.Machine

/-- The 2-bit cause codes (60_exceptions.md R151); 0 stands for no cause. -/
def Cause.code : Cause → BitVec 2
  | .analogAddressRange => 1#2
  | .discreteBitAddressRange => 2#2
  | .discreteGroupRange => 3#2

/-- `p_err`: 0 for a command that succeeded (50_interfaces.md R135). -/
def PortResult.errCode : PortResult → BitVec 2
  | .ok => 0#2
  | .data _ => 0#2
  | .err c => c.code

/-- `p_rdata`: defined only where a read succeeded (50_interfaces.md R135; 93_implementation_defined.md U3). -/
def PortResult.readData : PortResult → Option Slot
  | .ok => none
  | .data v => some v
  | .err _ => none

/-- `rx_ready`: 1 exactly when phase = WaitByte and FAULT = 0 (50_interfaces.md R134). -/
def rxReady (s : State) : Bool := decide (s.phase = .waitByte) && !s.fault

/-- `p_ready`: 0 while FAULT = 1 (50_interfaces.md R135). -/
def pReady (s : State) : Bool := !s.fault

/-- `tx_valid`: a reply byte is offered (50_interfaces.md R134); none while FAULT = 1 (60_exceptions.md R154). -/
def txValid (s : State) : Bool := !s.unsent.isEmpty && !s.fault

/-- `tx_data`: the byte offered, where there is one (50_interfaces.md R134). -/
def txData (s : State) : Option Byte := if txValid s then s.unsent.head? else none

end Sys2Proof.Machine
end

