-- ==== Sys2Proof/Machine/Operands.lean ====
section
/-! DEFINITION. The operand forms: the range checks and address mappings of the port side, and the two
computations on operand values. The wire side's operands are already indices (30_encoding.md R54). -/

namespace Sys2Proof.Machine

/-- The slot of an external address: `address - 1` for 1..128, nothing outside, never wrapped
(20_memory.md R31, 40_store_ops.md R70). -/
def externalSlot (address : Int) : Option (Fin 128) :=
  if h : 1 ≤ address ∧ address ≤ 128 then some ⟨(address - 1).toNat, by omega⟩ else none

/-- `addressToSlot` (40_store_ops.md R72), on its domain 1..384: group `(bitAddr - 1) mod 48`, position
`(bitAddr - 1) div 48`. -/
def addressToSlot (bitAddr : Int) (h : 1 ≤ bitAddr ∧ bitAddr ≤ 384) : Fin 48 × Fin 8 :=
  (⟨(bitAddr - 1).toNat % 48, by omega⟩, ⟨(bitAddr - 1).toNat / 48, by omega⟩)

/-- The inverse mapping `pos * 48 + group + 1` (20_memory.md R34, 10_state.md R15). -/
def slotToAddress (g : Fin 48) (pos : Fin 8) : Int := pos.val * 48 + g.val + 1

/-- The signal of a global bit address, nothing outside 1..384 (40_store_ops.md R73). -/
def bitSlot (bitAddr : Int) : Option (Fin 48 × Fin 8) :=
  if h : 1 ≤ bitAddr ∧ bitAddr ≤ 384 then some (addressToSlot bitAddr h) else none

/-- The group of a port group index, nothing outside 0..47 (20_memory.md R35, 40_store_ops.md R74). -/
def groupIndex (group : Int) : Option (Fin 48) :=
  if h : 0 ≤ group ∧ group ≤ 47 then some ⟨group.toNat, by omega⟩ else none

/-- `value & 0x3FF`, what `SETA` stores: truncated to 10 bits, never rejected (40_store_ops.md R70). -/
def maskAnalog (value : Nat) : Slot := BitVec.ofNat 10 (value &&& 0x3FF)

/-- `1 << pos`, 8 bits wide (41_codec.md R97). -/
def positionMask (pos : Fin 8) : Byte := 1#8 <<< pos.val

/-- A group with bit `pos` set or cleared and its other seven bits kept (40_store_ops.md R73). -/
def setBit (raw : Byte) (pos : Fin 8) (on : Bool) : Byte :=
  if on then raw ||| positionMask pos else raw &&& ~~~(positionMask pos)

end Sys2Proof.Machine
end

