-- ==== Sys2Proof/Machine/Ops.lean ====
section
/-! DEFINITION. The named operations over the state: reading and writing the store, delivering a port result,
emitting a reply, the two error mechanisms, and reset. -/

namespace Sys2Proof.Machine

/-! ## Admission -/

/-- An operation is admitted only while FAULT = 0 (60_exceptions.md R154, R158 b); then it leads to `s'`. -/
def admitted (s s' : State) : Host.Outcome State Fault Refusal :=
  if s.fault then .fault .blockFaulted else .next s'

/-! ## The store -/

/-- `A[i]` (00_scope.md section 5). -/
def readAnalog (s : State) (i : Fin 128) : Slot := s.A[i.val]

/-- `A[i] <- v` (00_scope.md section 5). -/
def writeAnalog (s : State) (i : Fin 128) (v : Slot) : State := { s with A := s.A.set i.val v }

/-- `D[g]` (00_scope.md section 5). -/
def readGroup (s : State) (g : Fin 48) : Byte := s.D[g.val]

/-- The read-modify-write of one bit of `D[g]`, one indivisible event (20_memory.md R43). -/
def writeGroupBit (s : State) (g : Fin 48) (pos : Fin 8) (on : Bool) : State :=
  { s with D := s.D.set g.val (setBit s.D[g.val] pos on) }

/-! ## Port results and the port error -/

/-- The caller receives its result (50_interfaces.md R130). -/
def deliverResult (s : State) (r : PortResult) : State := { s with results := s.results ++ [r] }

/-- TAKING A PORT ERROR (60_exceptions.md R152): the caller receives the cause and no data, nothing else
changes, and the block goes on. -/
def raisePortError (s : State) (c : Cause) : State := deliverResult s (.err c)

/-! ## Emission -/

/-- How many of `n` offered bytes the transport takes now (42_responder.md R120). -/
def taken (room : Option Nat) (n : Nat) : Nat :=
  match room with
  | none => n
  | some k => min k n

/-- The transport takes what it has room for, in order; with the last byte the Responder returns to WaitByte
and the request is dropped (42_responder.md R111, R112, R116). -/
def handOver (s : State) : State :=
  let n := taken s.txRoom s.unsent.length
  let rest := s.unsent.drop n
  { s with
    tx := s.tx ++ s.unsent.take n
    unsent := rest
    txRoom := s.txRoom.map (· - n)
    phase := if rest.isEmpty then .waitByte else .dispatch
    req := if rest.isEmpty then none else s.req }

/-- `Tx` of a whole reply: its bytes are offered in order and handed over as far as there is room. -/
def sendReply (s : State) (bytes : List Byte) : State := handOver { s with unsent := s.unsent ++ bytes }

/-- The switcher bit of a legal discrete request appears on `sw_obs` (50_interfaces.md R139). -/
def showSwitch (s : State) (sw : Bool) : State := { s with swObs := sw }

/-! ## The wire fault, and the way out of it -/

/-- TAKING THE WIRE FAULT (60_exceptions.md R153): FAULT and FCAUSE are written, no byte is emitted, `phase`
stays Dispatch. Nothing is saved and control goes nowhere. -/
def raiseWireFault (s : State) (c : Cause) : State :=
  { s with fault := true, fcause := c.code, phase := .dispatch }

/-- THE RESET EVENT, the only way out of FAULT = 1 (70_reset_and_hazards.md R170; 60_exceptions.md R155).
What the senders still hold stays with them, to be performed on the new state; the transaction in progress is
dropped (log 7). -/
def resetEvent (s : State) : State :=
  { State.reset with rx := s.rx, port := s.port, txRoom := s.txRoom, turn := s.turn }

end Sys2Proof.Machine
end

