-- ==== Sys2Proof/Machine/Responder.lean ====
section
/-! DEFINITION. The wire operations `RDA`, `RDD.INVALID` and `RDD`, and the whole transaction as one function. -/

namespace Sys2Proof.Machine

/-- `RDA idx` (42_responder.md R112): one read of `A[idx]`, with no -1 shift, and the two-byte reply. -/
def execRda (idx : Fin 128) (s : State) : Host.Outcome State Fault Refusal :=
  admitted s (sendReply s (analogReply (readAnalog s idx)))

/-- `RDD.INVALID` (42_responder.md R114): the wire fault, before any store access; `g` and `sw` do not matter. -/
def execRddInvalid (_g : BitVec 6) (_sw : Bool) (s : State) : Host.Outcome State Fault Refusal :=
  admitted s (raiseWireFault s .discreteGroupRange)

/-- `RDD g, sw` (42_responder.md R113): the complement of the whole group; `sw` is only shown. -/
def execRdd (g : Fin 48) (sw : Bool) (s : State) : Host.Outcome State Fault Refusal :=
  admitted s (sendReply (showSwitch s sw) (discreteReply (readGroup s g)))

/-- What `poll` answers (42_responder.md R115). -/
inductive PollAnswer where
  /-- The reply bytes, in order. -/
  | reply (bytes : List Byte)
  /-- The wire fault and its cause. -/
  | fault (cause : Cause)
deriving DecidableEq, Repr

/-- `poll(b, A, D)` (42_responder.md R115): the transaction as one function of the request byte and the store. -/
def poll (b : Byte) (A : Vector Slot 128) (D : Vector Byte 48) : PollAnswer :=
  match decodeRequest b with
  | .analog idx => .reply (analogReply A[idx.val])
  | .discrete g _ => .reply (discreteReply D[g.val])
  | .invalid _ _ => .fault .discreteGroupRange

end Sys2Proof.Machine
end

