-- ==== Sys2Proof/Machine/Agents.lean ====
section
/-! DEFINITION. What the next step of the block is: the inputs the environment sets, the events that are no
operation (taking a byte, handing over reply bytes, reset), and the choice between the two sides. -/

namespace Sys2Proof.Machine

/-! ## The environment's inputs, set between steps (log 3, log 4) -/

/-- The requester sends a byte: it waits with the transport, after those already there (42_responder.md R111). -/
def State.deliver (s : State) (b : Byte) : State := { s with rx := s.rx ++ [b] }

/-- The host issues a command: it waits with the host, after those already there (20_memory.md R42). -/
def State.command (s : State) (w : Command) : State := { s with port := s.port ++ [w] }

/-- A `Reset` event becomes pending; it may at any time (70_reset_and_hazards.md R170). -/
def State.askReset (s : State) : State := { s with resetReq := true }

/-- The transport's readiness becomes `room` (50_interfaces.md R134, 70_reset_and_hazards.md R180). -/
def State.setTxRoom (s : State) (room : Option Nat) : State := { s with txRoom := room }

/-! ## The initialization load, as the port sees it -/

/-- A record of the initialization file whose two fields are integers: `<address> <value>`, the address external
(50_interfaces.md R136). Reading the text is the loader's (00_scope.md R4); a line it skips gives no record and issues
no command (R137). -/
structure LoadRecord where
  /-- The external address, 1..128 where it is in range. -/
  address : Int
  /-- The value, as the file gives it: it may be negative or larger than the port carries (91_not_in_source.md N8). -/
  value : Int
deriving DecidableEq, Repr

/-- Each valid record becomes one `SETA address, value` (50_interfaces.md R136). A negative value is no operand of it:
the loader refuses the record and does not convert it (R137; 93_implementation_defined.md U14). -/
def LoadRecord.operation? (r : LoadRecord) : Option Instr :=
  if 0 ≤ r.value then some (.seta r.address r.value.toNat) else none

/-- The command word the loader issues for a record, if any. An operand that does not fit the port's widths is refused
by the loader, not converted (50_interfaces.md R135, R141; 93_implementation_defined.md U14). Every other record reaches
the port, which refuses an address outside 1..128 (R137). Log 17. -/
def LoadRecord.command? (r : LoadRecord) : Option Command := do (← (← r.operation?).toCode?).command?

/-- The loader issues the records' commands in file order, and goes on with the next record after one it refuses
(50_interfaces.md R136, R137; 70_reset_and_hazards.md R172). -/
def State.load (s : State) (records : List LoadRecord) : State :=
  { s with port := s.port ++ records.filterMap LoadRecord.command? }

/-! ## What one step is -/

/-- What the block does next. -/
inductive Action where
  /-- A move that is no operation: to the state given. -/
  | move (s : State)
  /-- The operation `i`, performed on the state given. -/
  | run (i : Instr) (s : State)
  /-- No step: the block is stopped. -/
  | stop (r : Fault)

/-- WaitByte to Dispatch: exactly one byte, the oldest, is taken (42_responder.md R111). -/
def acceptByte (s : State) (b : Byte) (rest : List Byte) : State :=
  { s with rx := rest, phase := .dispatch, req := some b }

/-- The host's oldest command is taken (50_interfaces.md R135). -/
def takeCommand (s : State) (rest : List Command) : State := { s with port := rest }

/-- The transport has room for at least one byte (50_interfaces.md R134, `tx_ready`). -/
def txReady (s : State) : Bool := decide (s.txRoom ≠ some 0)

/-- The wire side's move, if it has one. In WaitByte: take a byte, if there is one (R111). In Dispatch: hand
over the reply bytes still unsent, if the transport has room (R120); with none unsent, run the operation the
held byte decodes to (R112, R113, R114). -/
def wireAction (s : State) : Option Action :=
  match s.phase with
  | .waitByte =>
    match s.rx with
    | [] => none
    | b :: rest => some (.move (acceptByte s b rest))
  | .dispatch =>
    match s.unsent with
    | [] => s.req.map fun b => .run (decodeRequest b).toInstr s
    | _ :: _ => if txReady s then some (.move (handOver s)) else none

/-- The port side's move, if it has one: the oldest command (20_memory.md R42). -/
def portAction (s : State) : Option Action :=
  match s.port with
  | [] => none
  | w :: rest => some (.run (decodeCommand w) (takeCommand s rest))

/-- One choice of the schedule is used up (20_memory.md R42). -/
def nextTurn (s : State) : State := { s with turn := s.turn + 1 }

/-- The two sides serialised (20_memory.md R41). Where both have a move, which goes first is free (R42); where
neither has, the block waits (70_reset_and_hazards.md R180). -/
def serialise (s : State) : Action :=
  match wireAction s, portAction s with
  | none, none => .move s
  | some a, none => a
  | none, some a => a
  | some _, some _ =>
    if Config.wireFirst s.turn then (wireAction (nextTurn s)).getD (.move s)
    else (portAction (nextTurn s)).getD (.move s)

/-- What the block does next: reset wins over everything, then FAULT is tested, then the two sides are
serialised (60_exceptions.md R158, R154). -/
def nextAction (s : State) : Action :=
  if s.resetReq then .move (resetEvent s)
  else if s.fault then .stop .blockFaulted
  else serialise s

/-! ## Placing an operation where the next step takes it -/

/-- A request byte held in Dispatch, its operation next, with no reset and no command to go before it. -/
def placeRequest (s : State) (b : Byte) : State :=
  { s with phase := .dispatch, req := some b, unsent := [], port := [], resetReq := false }

/-- A command first in the host's queue, with no reset and nothing on the wire side to go before it. -/
def placeCommand (s : State) (w : Command) : State :=
  { s with port := w :: s.port, phase := .waitByte, req := none, unsent := [], rx := [], resetReq := false }

/-- The code that `nbits` bits are, placed; what is no code is not placed. -/
def placeCode (s : State) (nbits w : Nat) : State :=
  match codeOfBits nbits w with
  | .ok (.request b) => placeRequest s b
  | .ok (.command c) => placeCommand s c
  | .error _ => s

end Sys2Proof.Machine
end

