-- ==== Sys2Proof/Machine/Store.lean ====
section
/-! DEFINITION. The port operations `SETA`, `GETA`, `SETDB` and `GETDG` (40_store_ops.md). -/

namespace Sys2Proof.Machine

/-- `SETA address, value` (40_store_ops.md R70). -/
def execSeta (address : Int) (value : Nat) (s : State) : Host.Outcome State Fault Refusal :=
  admitted s <|
    match externalSlot address with
    | some i => deliverResult (writeAnalog s i (maskAnalog value)) .ok
    | none => raisePortError s .analogAddressRange

/-- `GETA address` (40_store_ops.md R71). -/
def execGeta (address : Int) (s : State) : Host.Outcome State Fault Refusal :=
  admitted s <|
    match externalSlot address with
    | some i => deliverResult s (.data (readAnalog s i))
    | none => raisePortError s .analogAddressRange

/-- `SETDB bitAddr, on` (40_store_ops.md R73). -/
def execSetdb (bitAddr : Int) (on : Bool) (s : State) : Host.Outcome State Fault Refusal :=
  admitted s <|
    match bitSlot bitAddr with
    | some (g, pos) => deliverResult (writeGroupBit s g pos on) .ok
    | none => raisePortError s .discreteBitAddressRange

/-- `GETDG group` (40_store_ops.md R74): the raw group, zero-extended on the 10-bit data output. -/
def execGetdg (group : Int) (s : State) : Host.Outcome State Fault Refusal :=
  admitted s <|
    match groupIndex group with
    | some g => deliverResult s (.data ((readGroup s g).setWidth 10))
    | none => raisePortError s .discreteGroupRange

end Sys2Proof.Machine
end

