-- ==== Sys2Proof/Machine/Dispatch.lean ====
section
/-! DEFINITION. One arm per operation. -/

namespace Sys2Proof.Machine

/-- The meaning of each operation. -/
def exec (i : Instr) (s : State) : Host.Outcome State Fault Refusal :=
  match i with
  | .rda idx => Sys2Proof.Machine.execRda idx s
  | .rddInvalid g sw => Sys2Proof.Machine.execRddInvalid g sw s
  | .rdd g sw => Sys2Proof.Machine.execRdd g sw s
  | .seta address value => Sys2Proof.Machine.execSeta address value s
  | .geta address => Sys2Proof.Machine.execGeta address s
  | .setdb bitAddr on => Sys2Proof.Machine.execSetdb bitAddr on s
  | .getdg group => Sys2Proof.Machine.execGetdg group s

end Sys2Proof.Machine
end

