-- ==== Sys2Proof/Machine/Step.lean ====
section
/-! DEFINITION. One step of the block, and placing an operation for the next step. -/

namespace Sys2Proof.Machine

/-- One step (00_scope.md R6): a move of one agent, or a stop while FAULT = 1. -/
def step (s : State) : Host.Outcome State Fault Refusal :=
  match nextAction s with
  | .move s' => .next s'
  | .run i s' => exec i s'
  | .stop r => .fault r

/-- The operation whose code is `w` placed so that the very next step runs it: a request byte as delivered and
taken, a port command as offered by the host (log 11). FAULT is left as it is. -/
def State.withFetchWord (s : State) (nbits w : Nat) : State := placeCode s nbits w

end Sys2Proof.Machine
end

