-- ==== Sys2Proof/Safety.lean ====
section
/-! DEFINITION. The terms claims are stated in: the invariant of the block, the states a run can reach, and
traffic that keeps the protocol. -/

namespace Sys2Proof.Machine

/-- One of the 32 request bytes that select a group that does not exist (30_encoding.md R57). -/
def illegalRequest (b : Byte) : Bool :=
  match decodeRequest b with
  | .analog _ => false
  | .discrete _ _ => false
  | .invalid _ _ => true

/-- The bytes still unsent are the end of one reply to the held request: all of it or its last byte for an
analog request, all of it for a discrete one; an illegal request has no reply (30_encoding.md R59, R60). -/
def ReplyInProgress (b : Byte) (unsent : List Byte) : Prop :=
  match decodeRequest b with
  | .analog _ => ∃ v : Slot, unsent = analogReply v ∨ unsent = [(encodeAnalog v).2] ∨ unsent = []
  | .discrete _ _ => ∃ raw : Byte, unsent = discreteReply raw ∨ unsent = []
  | .invalid _ _ => unsent = []

/-- The invariant of the block: a request is held exactly in Dispatch (10_state.md R17), what is unsent belongs
to its reply (R19), FAULT stands only over a held illegal request with cause 3 and phase Dispatch
(60_exceptions.md R153), and FCAUSE is 0 without it (10_state.md R21). -/
structure State.Inv (s : State) : Prop where
  waiting : s.phase = .waitByte → s.req = none ∧ s.unsent = []
  dispatching : s.phase = .dispatch → ∃ b, s.req = some b ∧ ReplyInProgress b s.unsent
  faulted : s.fault = true → s.fcause = 3#2 ∧ s.phase = .dispatch ∧ ∃ b, s.req = some b ∧ illegalRequest b = true
  unfaulted : s.fault = false → s.fcause = 0#2

/-- The states of a run: from reset, by steps of the block and by what the environment does between them
(50_interfaces.md R130, R141). -/
inductive Reachable : State → Prop where
  | reset : Reachable State.reset
  | deliver {s : State} (h : Reachable s) (b : Byte) : Reachable (s.deliver b)
  | command {s : State} (h : Reachable s) (w : Command) : Reachable (s.command w)
  | askReset {s : State} (h : Reachable s) : Reachable s.askReset
  | setTxRoom {s : State} (h : Reachable s) (room : Option Nat) : Reachable (s.setTxRoom room)
  | step {s t : State} (h : Reachable s) (hs : step s = .next t) : Reachable t

/-- No fault is recorded and the requester keeps its duty: neither the held byte nor a byte waiting with the
transport is illegal (50_interfaces.md R141, 70_reset_and_hazards.md R177). -/
structure State.LegalTraffic (s : State) : Prop where
  noFault : s.fault = false
  held : ∀ b, s.req = some b → illegalRequest b = false
  waiting : ∀ b ∈ s.rx, illegalRequest b = false

/-- The block is between transactions, with only the wire side active and a transport that takes every byte:
the setting in which 42_responder.md R115 states a transaction as one function. -/
structure State.WireQuiet (s : State) : Prop where
  noReset : s.resetReq = false
  noFault : s.fault = false
  waiting : s.phase = .waitByte
  noRequest : s.req = none
  nothingUnsent : s.unsent = []
  noCommand : s.port = []
  roomForAll : s.txRoom = none

/-- The reply to a request byte, empty where there is none (42_responder.md R115). -/
def replyTo (b : Byte) (A : Vector Slot 128) (D : Vector Byte 48) : List Byte :=
  match poll b A D with
  | .reply bytes => bytes
  | .fault _ => []

/-- The request taken whose operation has not run: held in Dispatch with no byte of a reply and no fault. -/
def State.requestHeld (s : State) : List Byte :=
  if s.phase = .dispatch ∧ s.unsent = [] ∧ s.fault = false then s.req.toList else []

/-- The requests not yet run, in request order: the one held, then those that wait with the transport
(42_responder.md R111). -/
def State.requestsWaiting (s : State) : List Byte := s.requestHeld ++ s.rx

/-- The reply to the request held, from the tables as they are (42_responder.md R115). -/
def State.heldReply (s : State) : List Byte := s.req.toList.flatMap fun b => replyTo b s.A s.D

end Sys2Proof.Machine
end

