-- ==== Sys2Proof/Certificates/Slice0/Obligations.lean ====
section
/-! DEFINITION. The statements for the provers. OBLIGATIONS.json gives each its title, its rules and its tier. -/

open Sys2Proof Sys2Proof.Machine

/-! ## Codes -/

/-- Decode and encode agree on every operation that has a code: no bit of an encoding is dropped
(30_encoding.md R52, R53, R63). -/
def Obligations.DecodeOfEncodeIsTheInstruction : Prop :=
  ∀ i : Instr, i.wellFormed = true → decode (encode i) = i

/-- Every request byte is the code of the operation it decodes to: no two bytes decode to one operation
(30_encoding.md R55). -/
def Obligations.EncodeOfDecodedRequestIsTheByte : Prop :=
  ∀ b : Byte, encode (decode (.request b)) = .request b

/-- A command word is the code of its operation, up to the data bits the operation ignores, which the encoder
writes as zero (30_encoding.md R63; the zeros are the model's choice, log 14). -/
def Obligations.EncodeOfDecodedCommandClearsIgnoredData : Prop :=
  ∀ w : Command,
    (commandOp w = 0#2 → encode (decode (.command w)) = .command w) ∧
    (commandOp w = 2#2 → encode (decode (.command w)) = .command (w &&& 0x3FFFF0001#34)) ∧
    (commandOp w = 1#2 ∨ commandOp w = 3#2 →
      encode (decode (.command w)) = .command (w &&& 0x3FFFF0000#34))

/-- Whatever the block receives decodes to a well-formed operation of the side it came from: the port has no
illegal command and every request byte has an operation (30_encoding.md R58, R63). -/
def Obligations.EveryCodeDecodesToWellFormedOperation : Prop :=
  (∀ c : Code, (decode c).wellFormed = true) ∧
  (∀ b : Byte, (decode (.request b)).side = .wire) ∧
  (∀ w : Command, (decode (.command w)).side = .port)

/-- The request decoder, in arithmetic over all 256 bytes (41_codec.md R90): class by bit 7, the fields as they
stand, no shift, and the group field 48..63 invalid. -/
def Obligations.RequestDecoderMap : Prop :=
  ∀ b : Byte,
    match decodeRequest b with
    | .analog idx => 128 ≤ b.toNat ∧ idx.val = b.toNat - 128
    | .discrete g sw => b.toNat < 128 ∧ g.val = b.toNat % 64 ∧ sw = decide (64 ≤ b.toNat)
    | .invalid g sw =>
      b.toNat < 128 ∧ 48 ≤ b.toNat % 64 ∧ g.toNat = b.toNat % 64 ∧ sw = decide (64 ≤ b.toNat)

/-- A few words written out from the spec's encodings decode to their operations (95_test_vectors.md V6, V8,
V13 and programs P1, P2). -/
def Obligations.SampleWordsDecode : Prop :=
  decode (.request 0x68#8) = .rdd 40 true ∧
  decode (.request 0x70#8) = .rddInvalid 48#6 true ∧
  decode (.request 0xC0#8) = .rda 64 ∧
  decode (.command 0x0000503E8#34) = .seta 5 1000 ∧
  decode (.command 0x100050000#34) = .geta 5 ∧
  decode (.command 0x200890001#34) = .setdb 137 true ∧
  decode (.command 0x300280000#34) = .getdg 40 ∧
  decode (.command 0x0FFFF0007#34) = .seta (-1) 7

/-! ## The codec -/

/-- The analog framing loses nothing (41_codec.md R93): decoding an encoded value gives it back, the encoder is
injective, and re-encoding a decoded pair gives it back exactly for pairs in the two ranges. The last two clauses
are the spec's own inferences. -/
def Obligations.AnalogFramingRoundTrip : Prop :=
  (∀ v : Slot, decodeAnalog (encodeAnalog v).1 (encodeAnalog v).2 = v) ∧
  (∀ v w : Slot, encodeAnalog v = encodeAnalog w → v = w) ∧
  (∀ l h : Byte, encodeAnalog (decodeAnalog l h) = (l, h) ↔ 0xC0 ≤ l.toNat ∧ h.toNat ≤ 0x0F)

/-- The two reply bytes in arithmetic (41_codec.md R91): 192 plus the value modulo 64, then the value divided
by 64, low part first. -/
def Obligations.AnalogReplyBytes : Prop :=
  ∀ v : Slot, (analogReply v).map BitVec.toNat = [192 + v.toNat % 64, v.toNat / 64]

/-- The discrete reply (41_codec.md R94): 255 minus the raw group, every bit inverted in place, and its own
inverse (the last clause is the spec's own inference). -/
def Obligations.DiscreteReplyIsComplement : Prop :=
  ∀ raw : Byte, (discreteReply raw).map BitVec.toNat = [255 - raw.toNat] ∧
    (∀ pos : Fin 8, (encodeDiscrete raw).getLsbD pos.val = !raw.getLsbD pos.val) ∧
    encodeDiscrete (encodeDiscrete raw) = raw

/-- The bit addresses 1..384 and the pairs (group, position) correspond one to one (20_memory.md R34): the
inverse is `pos * 48 + group + 1` (the spec's own inference). -/
def Obligations.BitAddressMappingIsBijection : Prop :=
  (∀ (b : Int) (h : 1 ≤ b ∧ b ≤ 384), slotToAddress (addressToSlot b h).1 (addressToSlot b h).2 = b) ∧
  (∀ (b b' : Int) (h : 1 ≤ b ∧ b ≤ 384) (h' : 1 ≤ b' ∧ b' ≤ 384),
    addressToSlot b h = addressToSlot b' h' → b = b') ∧
  (∀ (g : Fin 48) (pos : Fin 8), bitSlot (slotToAddress g pos) = some (g, pos))

/-! ## The port operations -/

/-- `SETA` (40_store_ops.md R70): command words with op 00, `data` unsigned. In range it completes: slot `address - 1` holds `value & 0x3FF`, the caller
gets ok, nothing else changes. Out of range it is refused with AnalogAddressRange and nothing is written. -/
def Obligations.SetaStoresMaskedValueOrRefuses : Prop :=
  (∀ w : Command, commandOp w = 0#2 → decode (.command w) = .seta (commandAddr w) (w.toNat % 65536)) ∧
  ∀ (address : Int) (value : Nat) (s : State), s.fault = false →
    (1 ≤ address ∧ address ≤ 128 →
      ∃ t, exec (.seta address value) s = .next t ∧
        t = { s with A := t.A, results := s.results ++ [.ok] } ∧
        ∀ i : Fin 128, if (i.val : Int) = address - 1 then (readAnalog t i).toNat = value &&& 0x3FF
          else readAnalog t i = readAnalog s i) ∧
    (address < 1 ∨ 128 < address →
      exec (.seta address value) s = .next { s with results := s.results ++ [.err .analogAddressRange] })

/-- `GETA` (40_store_ops.md R71): command words with op 01. In range it completes with the content of slot `address - 1`; out of range it
is refused with AnalogAddressRange and no data. No state but the caller's result is written. -/
def Obligations.GetaReturnsSlotOrRefuses : Prop :=
  (∀ w : Command, commandOp w = 1#2 → decode (.command w) = .geta (commandAddr w)) ∧
  ∀ (address : Int) (s : State), s.fault = false →
    (∀ i : Fin 128, (i.val : Int) = address - 1 →
      exec (.geta address) s = .next { s with results := s.results ++ [.data (readAnalog s i)] }) ∧
    (address < 1 ∨ 128 < address →
      exec (.geta address) s = .next { s with results := s.results ++ [.err .analogAddressRange] })

/-- `SETDB` (40_store_ops.md R73): command words with op 10, `on` being `data[0]`. In range it completes: bit `(bitAddr - 1) div 48` of group
`(bitAddr - 1) mod 48` becomes `on`, every other bit of every group is kept, the caller gets ok, nothing else
changes. Out of range it is refused with DiscreteBitAddressRange and nothing is written. -/
def Obligations.SetdbWritesOneBitOrRefuses : Prop :=
  (∀ w : Command, commandOp w = 2#2 → decode (.command w) = .setdb (commandAddr w) (decide (w.toNat % 2 = 1))) ∧
  ∀ (bitAddr : Int) (on : Bool) (s : State), s.fault = false →
    (1 ≤ bitAddr ∧ bitAddr ≤ 384 →
      ∃ t, exec (.setdb bitAddr on) s = .next t ∧
        t = { s with D := t.D, results := s.results ++ [.ok] } ∧
        ∀ (g : Fin 48) (pos : Fin 8), (readGroup t g).getLsbD pos.val =
          if (g.val : Int) = (bitAddr - 1) % 48 ∧ (pos.val : Int) = (bitAddr - 1) / 48 then on
          else (readGroup s g).getLsbD pos.val) ∧
    (bitAddr < 1 ∨ 384 < bitAddr →
      exec (.setdb bitAddr on) s =
        .next { s with results := s.results ++ [.err .discreteBitAddressRange] })

/-- `GETDG` (40_store_ops.md R74): command words with op 11. In range it completes with the raw group, not complemented; out of range it
is refused with DiscreteGroupRange and no data. No state but the caller's result is written. -/
def Obligations.GetdgReturnsRawGroupOrRefuses : Prop :=
  (∀ w : Command, commandOp w = 3#2 → decode (.command w) = .getdg (commandAddr w)) ∧
  ∀ (group : Int) (s : State), s.fault = false →
    (∀ g : Fin 48, (g.val : Int) = group →
      ∃ v : Slot, v.toNat = (readGroup s g).toNat ∧
        exec (.getdg group) s = .next { s with results := s.results ++ [.data v] }) ∧
    (group < 0 ∨ 47 < group →
      exec (.getdg group) s = .next { s with results := s.results ++ [.err .discreteGroupRange] })

/-- The frame of the four port operations (40_store_ops.md, "Common to all four"): they add one result, and may
change the two tables; they touch no other state, and the port cannot transmit (60_exceptions.md R159). -/
def Obligations.PortOperationsOnlyTouchTablesAndResults : Prop :=
  ∀ (i : Instr) (s t : State), i.side = .port → exec i s = .next t →
    ∃ r, t = { s with A := t.A, D := t.D, results := s.results ++ [r] }

/-- The laws of the store (40_store_ops.md R77): a write is read back, and is seen by no other read; a refused
operation is seen by none. The rule is the spec's own inference from R70 to R74. Stated through the results of `GETA` and `GETDG`, with the store's own reads. -/
def Obligations.StoreLaws : Prop :=
  ∀ (s : State), s.fault = false →
    (∀ (k : Fin 128) (v : Nat) (t : State), exec (.seta (k.val + 1) v) s = .next t →
      (∃ d : Slot, d.toNat = v &&& 0x3FF ∧
        exec (.geta (k.val + 1)) t = .next { t with results := t.results ++ [.data d] }) ∧
      (∀ k' : Fin 128, k' ≠ k → exec (.geta (k'.val + 1)) t =
        .next { t with results := t.results ++ [.data (readAnalog s k')] }) ∧
      (∀ g : Fin 48, exec (.getdg g.val) t =
        .next { t with results := t.results ++ [.data ((readGroup s g).setWidth 10)] })) ∧
    (∀ (b : Int) (h : 1 ≤ b ∧ b ≤ 384) (on : Bool) (t : State), exec (.setdb b on) s = .next t →
      (∃ d : Slot, d.getLsbD (addressToSlot b h).2.val = on ∧
        exec (.getdg (addressToSlot b h).1.val) t = .next { t with results := t.results ++ [.data d] }) ∧
      (∀ (b' : Int) (h' : 1 ≤ b' ∧ b' ≤ 384), b' ≠ b →
        ∃ d : Slot, d.getLsbD (addressToSlot b' h').2.val =
            (readGroup s (addressToSlot b' h').1).getLsbD (addressToSlot b' h').2.val ∧
          exec (.getdg (addressToSlot b' h').1.val) t =
            .next { t with results := t.results ++ [.data d] }) ∧
      (∀ k : Fin 128, exec (.geta (k.val + 1)) t =
        .next { t with results := t.results ++ [.data (readAnalog s k)] })) ∧
    (∀ (i : Instr) (c : Cause) (t : State), i.side = .port → exec i s = .next t →
      t.results = s.results ++ [.err c] → t.A = s.A ∧ t.D = s.D)

/-- Two `SETDB` to different signals both take effect, in either order, in one group too (20_memory.md R43). -/
def Obligations.SetdbOfDifferentSignalsCommute : Prop :=
  ∀ (b b' : Int) (on on' : Bool) (s t u t' u' : State), b ≠ b' →
    exec (.setdb b on) s = .next t → exec (.setdb b' on') t = .next u →
    exec (.setdb b' on') s = .next t' → exec (.setdb b on) t' = .next u' →
    u.D = u'.D ∧ u.A = s.A ∧ u'.A = s.A

/-- Reads have no side effects (20_memory.md R40): the four reading operations leave both tables unchanged, and
repeating one returns the same result, or the same reply where the transport takes every byte. -/
def Obligations.ReadsHaveNoSideEffects : Prop :=
  ∀ (i : Instr) (s t : State), (∃ a, i = .geta a) ∨ (∃ g, i = .getdg g) ∨ (∃ x, i = .rda x) ∨ (∃ g sw, i = .rdd g sw) →
    exec i s = .next t →
    t.A = s.A ∧ t.D = s.D ∧
    (i.side = .port → ∃ r, t.results = s.results ++ [r] ∧
      exec i t = .next { t with results := t.results ++ [r] }) ∧
    (i.side = .wire → s.unsent = [] → s.txRoom = none → ∃ bytes, bytes ≠ [] ∧ t.tx = s.tx ++ bytes ∧
      exec i t = .next { t with tx := t.tx ++ bytes })

/-- A port error (60_exceptions.md R152): the caller gets a cause whose code is that of the operation (R151) and no
data; nothing else changes; and the next operation of either side is admitted. -/
def Obligations.PortErrorChangesNothing : Prop :=
  ∀ (i : Instr) (s t : State) (c : Cause), i.side = .port → exec i s = .next t →
    t.results = s.results ++ [.err c] →
    t = { s with results := s.results ++ [.err c] } ∧
    (PortResult.err c).readData = none ∧
    (PortResult.err c).errCode =
      (match i with | .seta _ _ => 1#2 | .geta _ => 1#2 | .setdb _ _ => 2#2 | _ => 3#2) ∧
    ∀ j : Instr, ∃ u, exec j t = .next u

/-! ## The wire operations -/

/-- `RDA` (42_responder.md R112), where the transport takes every byte: the operation completes, the two bytes
of `A[idx]` are appended in order, the Responder is back in WaitByte and holds no request; nothing else
changes. The index is the low seven bits of the request byte, with no 1 subtracted. -/
def Obligations.RdaAnswersSlotWithTwoBytes : Prop :=
  ∀ (idx : Fin 128) (s : State), s.fault = false → s.unsent = [] → s.txRoom = none →
    (∀ b : Byte, b.toNat = 128 + idx.val → decodeRequest b = .analog idx) ∧
    exec (.rda idx) s = .next { s with
      tx := s.tx ++ [BitVec.ofNat 8 (192 + (readAnalog s idx).toNat % 64),
        BitVec.ofNat 8 ((readAnalog s idx).toNat / 64)]
      phase := .waitByte
      req := none }

/-- `RDD` (42_responder.md R113), where the transport takes every byte: the operation completes, the complement
of the whole group is appended, `sw` is shown on `sw_obs`, the Responder is back in WaitByte and holds no
request; nothing else changes. -/
def Obligations.RddAnswersGroupWithComplement : Prop :=
  ∀ (g : Fin 48) (sw : Bool) (s : State), s.fault = false → s.unsent = [] → s.txRoom = none →
    (∀ b : Byte, b.toNat = (if sw then 64 else 0) + g.val → decodeRequest b = .discrete g sw) ∧
    exec (.rdd g sw) s = .next { s with
      tx := s.tx ++ [BitVec.ofNat 8 (255 - (readGroup s g).toNat)]
      swObs := sw
      phase := .waitByte
      req := none }

/-- `RDD.INVALID` (42_responder.md R114, 60_exceptions.md R153): the operation takes the wire fault: FAULT is 1,
FCAUSE is 3, `phase` is Dispatch, no byte is emitted and nothing else changes, whatever `g` and `sw` are. It is the
operation of exactly the bytes 0x30..0x3F and 0x70..0x7F. That the fault is taken as a next state, and the step after
it is the stop, is the model's reading (log 5). -/
def Obligations.InvalidRequestTakesWireFault : Prop :=
  (∀ b : Byte, (∃ g sw, decode (.request b) = .rddInvalid g sw) ↔ 0x30 ≤ b.toNat % 64 ∧ b.toNat < 128) ∧
  ∀ (g : BitVec 6) (sw : Bool) (s : State), s.fault = false →
    exec (.rddInvalid g sw) s = .next { s with fault := true, fcause := 3#2, phase := .dispatch }

/-- A reply a transport has room for only in part (42_responder.md R120; log 4): exactly the first bytes are
appended, the rest waits unsent in Dispatch with the request still held, and the tables do not change. -/
def Obligations.ReplyWaitsForTransport : Prop :=
  ∀ (idx : Fin 128) (g : Fin 48) (sw : Bool) (k : Nat) (s : State),
    s.fault = false → s.unsent = [] → s.txRoom = some k →
    (k < 2 → exec (.rda idx) s = .next { s with
      tx := s.tx ++ (analogReply (readAnalog s idx)).take k
      unsent := (analogReply (readAnalog s idx)).drop k
      phase := .dispatch
      txRoom := some 0 }) ∧
    (2 ≤ k → exec (.rda idx) s = .next { s with
      tx := s.tx ++ analogReply (readAnalog s idx)
      phase := .waitByte
      req := none
      txRoom := some (k - 2) }) ∧
    (k = 0 → exec (.rdd g sw) s = .next { s with
      unsent := discreteReply (readGroup s g)
      swObs := sw
      phase := .dispatch }) ∧
    (1 ≤ k → exec (.rdd g sw) s = .next { s with
      tx := s.tx ++ discreteReply (readGroup s g)
      swObs := sw
      phase := .waitByte
      req := none
      txRoom := some (k - 1) })

/-- The frame of the three wire operations (42_responder.md R119): no wire request writes either table, delivers
a port result, or touches what the senders still hold. -/
def Obligations.WireOperationsNeverWriteTheStore : Prop :=
  ∀ (i : Instr) (s t : State), i.side = .wire → exec i s = .next t →
    t.A = s.A ∧ t.D = s.D ∧ t.results = s.results ∧ t.rx = s.rx ∧ t.port = s.port ∧
      t.resetReq = s.resetReq ∧ t.turn = s.turn

/-- The switcher bit (30_encoding.md R56): the same request with `sw = 1` and `sw = 0` selects the same group,
and is answered alike; the states differ in `sw_obs` at most. -/
def Obligations.SwitcherBitHasNoEffect : Prop :=
  ∀ (g : BitVec 6) (s : State), s.fault = false →
    ∃ t u : State, exec (decode (.request (0#1 ++ 1#1 ++ g))) s = .next t ∧
      exec (decode (.request (0#1 ++ 0#1 ++ g))) s = .next u ∧
      t = { u with swObs := t.swObs } ∧ t.tx = u.tx ∧ t.unsent = u.unsent

/-- The address-base asymmetry (20_memory.md R32, 70_reset_and_hazards.md R174): the value `SETA k` stores is
the reply to request index `k - 1`, and to no other index. -/
def Obligations.SetaIsPolledAtIndexOneBelow : Prop :=
  ∀ (k idx : Fin 128) (v : Nat) (s t u : State), s.fault = false → s.unsent = [] → s.txRoom = none →
    exec (.seta (k.val + 1) v) s = .next t → exec (.rda idx) t = .next u →
    u.tx = s.tx ++ analogReply (if idx = k then BitVec.ofNat 10 (v % 1024) else readAnalog s idx)

/-- The discrete inversion (70_reset_and_hazards.md R175): after `SETDB b, on` the group of `b` is one reply
byte whose bit at the position of `b` is the opposite of `on`, the other bits being those replied before. -/
def Obligations.SetdbIsPolledInverted : Prop :=
  ∀ (b : Int) (h : 1 ≤ b ∧ b ≤ 384) (on sw : Bool) (s t u : State),
    s.fault = false → s.unsent = [] → s.txRoom = none →
    exec (.setdb b on) s = .next t → exec (.rdd (addressToSlot b h).1 sw) t = .next u →
    ∃ x : Byte, u.tx = s.tx ++ [x] ∧ ∀ pos : Fin 8, x.getLsbD pos.val =
      if pos = (addressToSlot b h).2 then !on
      else (encodeDiscrete (readGroup s (addressToSlot b h).1)).getLsbD pos.val

/-- A transaction reads the store exactly once (20_memory.md R46): a port operation that falls between the two
bytes of an analog reply does not tear it; both bytes carry the value read. -/
def Obligations.AnalogReplyIsNotTorn : Prop :=
  ∀ (idx : Fin 128) (i : Instr) (s : State),
    s.fault = false → s.unsent = [] → s.txRoom = some 1 → s.resetReq = false → s.port = [] →
    i.side = .port →
    ∃ t u w, exec (.rda idx) s = .next t ∧ exec i t = .next u ∧ step (u.setTxRoom none) = .next w ∧
      t.tx = s.tx ++ (analogReply (readAnalog s idx)).take 1 ∧ u.tx = t.tx ∧
      w.tx = s.tx ++ analogReply (readAnalog s idx) ∧ w.phase = .waitByte ∧ w.A = u.A

/-! ## Steps -/

/-- A held request runs: in Dispatch, with nothing unsent and no command to go before it, the step is the operation
the held byte decodes to (42_responder.md R112, R113, R114). -/
def Obligations.StepRunsHeldRequest : Prop :=
  ∀ (s : State) (b : Byte), s.resetReq = false → s.fault = false → s.phase = .dispatch → s.unsent = [] →
    s.req = some b → s.port = [] →
    step s = exec (decode (.request b)) s

/-- The oldest port command runs, and leaves the host's queue, where the wire side has no move: in WaitByte with no
byte waiting, or in Dispatch with a reply the transport has no room for (20_memory.md R42, 50_interfaces.md R135). -/
def Obligations.StepRunsOldestCommand : Prop :=
  ∀ (s : State) (w : Command) (rest : List Command), s.resetReq = false → s.fault = false →
    s.port = w :: rest →
    (s.phase = .waitByte ∧ s.rx = [] ∨ s.phase = .dispatch ∧ s.unsent ≠ [] ∧ s.txRoom = some 0) →
    step s = exec (decode (.command w)) { s with port := rest }

/-- WaitByte to Dispatch (42_responder.md R111): in WaitByte, with FAULT = 0, exactly one byte, the oldest, is taken
and held (first clause: where no command goes before it); and whatever a step does, either no byte is taken, so
that what waits with the transport stays there in order, or this one was. In Dispatch no byte is taken. -/
def Obligations.RequestByteTakenOnlyInWaitByte : Prop :=
  (∀ (s : State) (b : Byte) (rest : List Byte), s.resetReq = false → s.fault = false → s.phase = .waitByte →
    s.rx = b :: rest → s.port = [] →
    step s = .next { s with rx := rest, phase := .dispatch, req := some b }) ∧
  (∀ s t : State, step s = .next t →
    t.rx = s.rx ∨ s.phase = .waitByte ∧ s.fault = false ∧
      ∃ b, s.rx = b :: t.rx ∧ t = { s with rx := t.rx, phase := .dispatch, req := some b, turn := t.turn })

/-- The unsent bytes of a reply are handed over in order once the transport has room, the last one ending the
transaction (42_responder.md R116, R120; the grain is the model's choice, log 4). -/
def Obligations.UnsentBytesAreHandedOver : Prop :=
  ∀ s : State, s.resetReq = false → s.fault = false → s.phase = .dispatch → s.unsent ≠ [] → s.port = [] →
    (s.txRoom = none →
      step s = .next { s with tx := s.tx ++ s.unsent, unsent := [], phase := .waitByte, req := none }) ∧
    (∀ k, s.txRoom = some k → 0 < k → ∃ t, step s = .next t ∧ t.tx ++ t.unsent = s.tx ++ s.unsent ∧
      t.unsent.length = s.unsent.length - k ∧ (t.phase = .waitByte ↔ t.unsent = []) ∧
      t.A = s.A ∧ t.D = s.D ∧ t.results = s.results)

/-- The order of two pending operations is not fixed (20_memory.md R42): where both sides have a move, the step is the
wire side's or the port side's as the free value `Config.wireFirst` has it, of which nothing is known (log 2), each
made on a state that differs only in the schedule's counter. Bytes are handed over as far as there is room (log 4). -/
def Obligations.EitherSideMayGoFirst : Prop :=
  ∀ (s : State) (w : Command) (rest : List Command) (b : Byte), s.resetReq = false → s.fault = false →
    s.port = w :: rest →
    (∀ bs, s.phase = .waitByte → s.rx = b :: bs → step s =
      if Config.wireFirst s.turn then
        .next { s with rx := bs, phase := .dispatch, req := some b, turn := s.turn + 1 }
      else exec (decode (.command w)) { s with port := rest, turn := s.turn + 1 }) ∧
    (s.phase = .dispatch → s.req = some b → s.unsent = [] → step s =
      if Config.wireFirst s.turn then exec (decode (.request b)) { s with turn := s.turn + 1 }
      else exec (decode (.command w)) { s with port := rest, turn := s.turn + 1 }) ∧
    (s.phase = .dispatch → s.unsent ≠ [] → s.txRoom = none → step s =
      if Config.wireFirst s.turn then
        .next { s with tx := s.tx ++ s.unsent, unsent := [], phase := .waitByte, req := none, turn := s.turn + 1 }
      else exec (decode (.command w)) { s with port := rest, turn := s.turn + 1 }) ∧
    (∀ k, s.phase = .dispatch → s.unsent ≠ [] → s.txRoom = some k → 0 < k → step s =
      if Config.wireFirst s.turn then
        .next { s with
          tx := s.tx ++ s.unsent.take k
          unsent := s.unsent.drop k
          txRoom := some (k - s.unsent.length)
          phase := if s.unsent.length ≤ k then .waitByte else .dispatch
          req := if s.unsent.length ≤ k then none else s.req
          turn := s.turn + 1 }
      else exec (decode (.command w)) { s with port := rest, turn := s.turn + 1 })

/-- The block waits, with no command and no reset pending: in WaitByte for ever if no byte comes
(70_reset_and_hazards.md R180), and in Dispatch, with a reply begun, for a transport that has no room (42_responder.md
R120). However many steps pass, the state does not change (log 12). -/
def Obligations.BlockWaitsUnchanged : Prop :=
  ∀ (n : Nat) (s : State), s.resetReq = false → s.fault = false → s.port = [] →
    (s.phase = .waitByte ∧ s.rx = [] ∨ s.phase = .dispatch ∧ s.unsent ≠ [] ∧ s.txRoom = some 0) →
    Sys2Proof.core.run n s = .next s

/-- Placing an operation runs it: the very next step is the operation (log 11). -/
def Obligations.PlacedOperationRunsNext : Prop :=
  ∀ (s : State), s.fault = false →
    (∀ b : Byte, step (s.withFetchWord 8 b.toNat) = exec (decode (.request b)) (placeRequest s b)) ∧
    (∀ w : Command, ∃ s', step (s.withFetchWord 40 w.toNat) = exec (decode (.command w)) s' ∧
      s'.A = s.A ∧ s'.D = s.D ∧ s'.port = s.port)

/-! ## The wire fault and reset -/

/-- While FAULT = 1 the block is quiescent (60_exceptions.md R154): it has no step except reset, and no other step
clears FAULT. -/
def Obligations.FaultedBlockHasNoStepButReset : Prop :=
  ∀ s : State, s.fault = true →
    (s.resetReq = false → step s = .fault .blockFaulted) ∧
    (s.resetReq = true → ∃ t, step s = .next t ∧ t.fault = false ∧ t.fcause = 0#2)

/-- The block stops for no other reason, and refuses nothing: a step that is no next state is the stop over a
standing FAULT (90_conflicts.md C6: the alternation goes on "for every input the source gives a meaning"). So does
every operation: with FAULT = 0 it completes, with FAULT = 1 it is that stop (as a fault outcome: the model's
reading, log 6). -/
def Obligations.OnlyStandingFaultStopsTheBlock : Prop :=
  ∀ s : State,
    ((∃ t, step s = .next t) ∨ (s.fault = true ∧ s.resetReq = false ∧ step s = .fault .blockFaulted)) ∧
    (s.fault = false → ∀ i : Instr, ∃ t, exec i s = .next t) ∧
    (s.fault = true → ∀ i : Instr, exec i s = .fault .blockFaulted)

/-- FAULT is set by the wire fault and by nothing else, and FCAUSE is written together with FAULT and never
otherwise, reset apart (10_state.md R21): a step that sets FAULT ran a held illegal request, and wrote nothing but
FAULT, FCAUSE and the schedule's counter; a step that leaves FAULT at 0 leaves FCAUSE. -/
def Obligations.OnlyIllegalRequestSetsFault : Prop :=
  ∀ s t : State, step s = .next t → s.fault = false → s.resetReq = false →
    (t.fault = true → ∃ b, s.req = some b ∧ illegalRequest b = true ∧
      t = { s with fault := true, fcause := 3#2, turn := t.turn }) ∧
    (t.fault = false → t.fcause = s.fcause)

/-- Only reset clears FAULT (10_state.md R21, 60_exceptions.md R155): a step out of a state with FAULT = 1 is a
reset, which also clears both tables. -/
def Obligations.OnlyResetClearsFault : Prop :=
  ∀ s t : State, s.fault = true → step s = .next t →
    s.resetReq = true ∧ t.fault = false ∧
      (∀ i, readAnalog t i = 0#10) ∧ (∀ g, readGroup t g = 0#8)

/-- The reset event (70_reset_and_hazards.md R170), at any time, FAULT = 1 or not: every slot and group is 0,
`phase` is WaitByte, FAULT and FCAUSE are 0, the transmit stream is empty, and the transaction in progress with
its unsent bytes is dropped. -/
def Obligations.ResetPutsStateToResetValues : Prop :=
  ∀ s : State, s.resetReq = true → ∃ t, step s = .next t ∧
    (∀ i, readAnalog t i = 0#10) ∧ (∀ g, readGroup t g = 0#8) ∧
    t.phase = .waitByte ∧ t.fault = false ∧ t.fcause = 0#2 ∧ t.tx = [] ∧ t.unsent = [] ∧ t.req = none

/-- What reset does beside that, by the model's choice (log 7): what the senders hold stays with them, `sw_obs`
is 0 (50_interfaces.md R139), the delivered results are forgotten and the request is used up. -/
def Obligations.ResetLeavesInputsWithSenders : Prop :=
  ∀ s t : State, s.resetReq = true → step s = .next t →
    t = { State.reset with rx := s.rx, port := s.port, txRoom := s.txRoom, turn := s.turn }

/-- The state after reset (10_state.md R23, R24). -/
def Obligations.ResetStateValues : Prop :=
  (∀ i, readAnalog State.reset i = 0#10) ∧ (∀ g, readGroup State.reset g = 0#8) ∧
    State.reset.phase = .waitByte ∧ State.reset.fault = false ∧ State.reset.fcause = 0#2 ∧
    State.reset.tx = [] ∧ State.reset.req = none

/-- After reset every slot and group is 0, and so a poll of one never written is answered `0xC0, 0x00` or `0xFF`
(10_state.md R23): in every state, whatever else was written, as long as the slot or group addressed is 0. -/
def Obligations.UnwrittenChannelsAnswerZeroValue : Prop :=
  (∀ i, readAnalog State.reset i = 0#10) ∧ (∀ g, readGroup State.reset g = 0#8) ∧
  ∀ (b : Byte) (s : State), illegalRequest b = false →
    (∀ i : Fin 128, b.toNat = 128 + i.val → readAnalog s i = 0#10) →
    (∀ g : Fin 48, b.toNat < 128 → b.toNat % 64 = g.val → readGroup s g = 0#8) →
    replyTo b s.A s.D = (if 128 ≤ b.toNat then [0xC0#8, 0x00#8] else [0xFF#8]) ∧
    (s.fault = false → s.unsent = [] → s.txRoom = none → ∃ t, exec (decode (.request b)) s = .next t ∧
      t.tx = s.tx ++ if 128 ≤ b.toNat then [0xC0#8, 0x00#8] else [0xFF#8])

/-! ## The whole machine -/

/-- All mutation of the tables goes through the accessors (10_state.md R25): a step that changes a table is a
reset, or ran the oldest port command and that is a `SETA` (then only `A` changes) or a `SETDB` (then only
`D`). -/
def Obligations.TablesChangeOnlyThroughAccessors : Prop :=
  ∀ s t : State, step s = .next t → s.resetReq = false →
    (t.A ≠ s.A → t.D = s.D ∧ ∃ w rest a v, s.port = w :: rest ∧ t.port = rest ∧ decodeCommand w = .seta a v) ∧
    (t.D ≠ s.D → t.A = s.A ∧ ∃ w rest b on, s.port = w :: rest ∧ t.port = rest ∧ decodeCommand w = .setdb b on)

/-- A step other than reset only appends to the transmit stream and to the results, at most one result, and
never to both (42_responder.md R116, 50_interfaces.md R130). -/
def Obligations.OutputsOnlyGrow : Prop :=
  ∀ s t : State, step s = .next t → s.resetReq = false →
    (∃ bytes, t.tx = s.tx ++ bytes) ∧ (∃ rs, t.results = s.results ++ rs ∧ rs.length ≤ 1) ∧
    (t.tx = s.tx ∨ t.results = s.results)

/-- The output `sw_obs` (50_interfaces.md R139) shows the switcher bit of the last legal discrete request: a step
other than reset changes it only by running such a request, to the bit of that request; reset makes it 0. -/
def Obligations.SwitchOutputFollowsDiscreteRequests : Prop :=
  ∀ s t : State, step s = .next t →
    (s.resetReq = true → t.swObs = false) ∧
    (s.resetReq = false → t.swObs = s.swObs ∨ ∃ b g, s.req = some b ∧ decodeRequest b = .discrete g t.swObs)

/-- The handshakes of the signal binding (50_interfaces.md R134, R135): a request byte is taken only while
`rx_ready` is 1 and a command only while `p_ready` is 1, and a byte that was offered on `tx_data` and is taken is
the next one of the transmit stream. -/
def Obligations.HandshakesGuardTheStep : Prop :=
  ∀ s t : State, step s = .next t →
    (t.rx ≠ s.rx → rxReady s = true) ∧ (t.port ≠ s.port → pReady s = true) ∧
    (∀ x, txData s = some x → s.resetReq = false → t.tx = s.tx ∨ ∃ more, t.tx = s.tx ++ x :: more)

/-- The invariant holds at reset (10_state.md R24). -/
def Obligations.InvariantAtReset : Prop := State.reset.Inv

/-- Every step keeps the invariant, from every state that has it (10_state.md R17, R19, R21; 60_exceptions.md
R153). -/
def Obligations.StepKeepsInvariant : Prop :=
  ∀ s t : State, s.Inv → step s = .next t → t.Inv

/-- The environment keeps the invariant, and so every state of every run has it (50_interfaces.md R130). -/
def Obligations.ReachableStatesHaveInvariant : Prop :=
  ∀ s : State, Reachable s → s.Inv

/-- While the requester keeps its duty the block never stops (50_interfaces.md R141, 70_reset_and_hazards.md R177):
every step answers a next state, and that state has the property again. -/
def Obligations.LegalTrafficNeverStops : Prop :=
  ∀ s : State, s.LegalTraffic → ∃ t, step s = .next t ∧ t.LegalTraffic

/-- A transaction is the function `poll` of the request byte and the store (42_responder.md R115): two steps
from WaitByte append the reply and are back in the same state, or raise the wire fault. The rule is the spec's own
inference; the two steps are the model's grain (log 1, log 5). -/
def Obligations.TransactionIsPoll : Prop :=
  ∀ (s : State) (b : Byte) (rest : List Byte), s.WireQuiet → s.rx = b :: rest →
    match poll b s.A s.D with
    | .reply bytes => ∃ sw, Sys2Proof.core.run 2 s =
        .next { s with rx := rest, tx := s.tx ++ bytes, swObs := sw }
    | .fault c => c = .discreteGroupRange ∧ Sys2Proof.core.run 2 s =
        .next { s with rx := rest, phase := .dispatch, req := some b, fault := true, fcause := 3#2 }

/-- The requests that wait are answered in order (42_responder.md R116), with only the wire side active, a transport
that takes every byte, and legal requests only: two steps a byte (log 1, log 4). `RunTransmitsRepliesInRequestOrder`
says it of every run. -/
def Obligations.TransmitStreamIsConcatenationOfReplies : Prop :=
  ∀ (bs : List Byte) (s : State), s.WireQuiet → s.rx = bs → (∀ b ∈ bs, illegalRequest b = false) →
    ∃ sw, Sys2Proof.core.run (2 * bs.length) s =
      .next { s with rx := [], tx := s.tx ++ bs.flatMap (fun b => replyTo b s.A s.D), swObs := sw }

/-- One result is presented per command taken, and an admitted command completes (50_interfaces.md R135,
70_reset_and_hazards.md R180): `n` waiting commands are all answered after `n` steps, and nothing is transmitted. -/
def Obligations.EveryCommandIsAnswered : Prop :=
  ∀ (ws : List Command) (s : State), s.resetReq = false → s.fault = false → s.phase = .waitByte → s.rx = [] →
    s.port = ws →
    ∃ t rs, Sys2Proof.core.run ws.length s = .next t ∧ t.port = [] ∧ t.results = s.results ++ rs ∧
      rs.length = ws.length ∧ t.tx = s.tx ∧ t.phase = .waitByte ∧ t.fault = false

/-- An initialization load (50_interfaces.md R136, R137; 70_reset_and_hazards.md R172), with nothing else going on, of any
records at all. A record that does not fit the port's widths is refused by the loader and issues nothing (R135, R141;
93_implementation_defined.md U14; log 17). The others take one step each, in file order; one whose address is out of
range is refused at the port. Loading goes on with the next in both cases. At the end every slot holds the last value
issued for its external address, 10 bits of it, and a slot no issued record names is as before; nothing else has
changed. -/
def Obligations.LoadLeavesLastValueOfEachAddress : Prop :=
  ∀ (records issued : List LoadRecord) (s : State),
    issued = (records.filter fun r =>
      decide (-32768 ≤ r.address ∧ r.address < 32768 ∧ 0 ≤ r.value ∧ r.value < 65536)) →
    s.resetReq = false → s.fault = false → s.phase = .waitByte → s.rx = [] → s.port = [] →
    ∃ t, Sys2Proof.core.run issued.length (s.load records) = .next t ∧
      t = { s with A := t.A, results := s.results ++ issued.map fun r =>
        if 1 ≤ r.address ∧ r.address ≤ 128 then .ok else .err .analogAddressRange } ∧
      ∀ i : Fin 128, ((readAnalog t i).toNat : Int) =
        match (issued.filter fun r => decide (r.address = (i.val + 1 : Int))).getLast? with
        | some r => r.value % 1024
        | none => ((readAnalog s i).toNat : Int)

/-- What one step does to the transmit stream (42_responder.md R111, R116), with its unsent end: it stays as it is and no
request is run; or the oldest request, held, is run, and exactly its reply from the tables of that moment is added at
the end. Whatever the port does meanwhile, and however little room the transport has. -/
def Obligations.StepAddsReplyOfOldestRequest : Prop :=
  ∀ s t : State, s.Inv → s.resetReq = false → step s = .next t →
    (t.requestsWaiting = s.requestsWaiting ∧ t.tx ++ t.unsent = s.tx ++ s.unsent) ∨
    (∃ b, s.phase = .dispatch ∧ s.unsent = [] ∧ s.req = some b ∧
      s.requestsWaiting = b :: t.requestsWaiting ∧
      t.tx ++ t.unsent = s.tx ++ s.unsent ++ replyTo b s.A s.D ∧ t.A = s.A ∧ t.D = s.D)

/-- The transmit stream of every run without a reset is the concatenation, in request order, of the replies
(42_responder.md R116): the requests served are the oldest that waited, in order; each is served in one state of the
run, those states in order too, and what the stream gains is the reply to each from the tables of its state. Nothing
is asked of the port commands, of the transport's room, of the bytes or of the schedule. -/
def Obligations.RunTransmitsRepliesInRequestOrder : Prop :=
  ∀ (n : Nat) (s t : State), s.Inv → s.resetReq = false → Sys2Proof.core.run n s = .next t →
    ∃ served : List (Nat × State), (served.map Prod.fst).Pairwise (· < ·) ∧
      (∀ p ∈ served, p.1 < n ∧ Sys2Proof.core.run p.1 s = .next p.2 ∧
        p.2.phase = .dispatch ∧ p.2.unsent = [] ∧ p.2.req ≠ none) ∧
      s.requestsWaiting = served.flatMap (fun p => p.2.req.toList) ++ t.requestsWaiting ∧
      t.tx ++ t.unsent = s.tx ++ s.unsent ++ served.flatMap fun p => p.2.heldReply
end

