-- ==== Sys2Proof/Laws/Operands.lean ====
section
/-! SUPPORT. One lemma per operand form: when it names a unit, which one, and the bits of the values computed. -/

namespace Sys2Proof.Machine

theorem externalSlot_eq_some {address : Int} {i : Fin 128} :
    externalSlot address = some i ↔ (i.val : Int) = address - 1 := by
  have hi := i.isLt
  unfold externalSlot
  split
  case isTrue h => simp only [Option.some.injEq, Fin.ext_iff]; omega
  case isFalse h => simp only [reduceCtorEq, false_iff]; omega

theorem externalSlot_eq_none {address : Int} :
    externalSlot address = none ↔ address < 1 ∨ 128 < address := by
  unfold externalSlot
  split <;> simp only [reduceCtorEq, false_iff, true_iff] <;> omega

theorem groupIndex_eq_some {group : Int} {g : Fin 48} : groupIndex group = some g ↔ (g.val : Int) = group := by
  have hg := g.isLt
  unfold groupIndex
  split
  case isTrue h => simp only [Option.some.injEq, Fin.ext_iff]; omega
  case isFalse h => simp only [reduceCtorEq, false_iff]; omega

theorem groupIndex_eq_none {group : Int} : groupIndex group = none ↔ group < 0 ∨ 47 < group := by
  unfold groupIndex
  split <;> simp only [reduceCtorEq, false_iff, true_iff] <;> omega

theorem addressToSlot_group (b : Int) (h : 1 ≤ b ∧ b ≤ 384) :
    ((addressToSlot b h).1.val : Int) = (b - 1) % 48 := by
  simp only [addressToSlot]; omega

theorem addressToSlot_position (b : Int) (h : 1 ≤ b ∧ b ≤ 384) :
    ((addressToSlot b h).2.val : Int) = (b - 1) / 48 := by
  simp only [addressToSlot]; omega

theorem bitSlot_eq_some {b : Int} {p : Fin 48 × Fin 8} :
    bitSlot b = some p ↔ ∃ h : 1 ≤ b ∧ b ≤ 384, addressToSlot b h = p := by
  unfold bitSlot
  split
  case isTrue h => simp [h]
  case isFalse h => simp only [reduceCtorEq, false_iff]; rintro ⟨h', -⟩; exact h h'

theorem bitSlot_eq_none {b : Int} : bitSlot b = none ↔ b < 1 ∨ 384 < b := by
  unfold bitSlot
  split <;> simp only [reduceCtorEq, false_iff, true_iff] <;> omega

theorem maskAnalog_toNat (v : Nat) : (maskAnalog v).toNat = v % 1024 := by
  have h : v &&& 0x3FF = v % 2 ^ 10 := Nat.and_two_pow_sub_one_eq_mod v 10
  simp only [maskAnalog, BitVec.toNat_ofNat, h]
  omega

theorem positionMask_getLsbD (pos q : Fin 8) : (positionMask pos).getLsbD q.val = decide (q = pos) := by
  revert pos q; decide

theorem setBit_getLsbD (raw : Byte) (pos q : Fin 8) (on : Bool) :
    (setBit raw pos on).getLsbD q.val = if q = pos then on else raw.getLsbD q.val := by
  unfold setBit
  cases on <;>
    simp only [Bool.false_eq_true, if_true, if_false, BitVec.getLsbD_or, BitVec.getLsbD_and, BitVec.getLsbD_not,
      q.isLt, decide_true, Bool.true_and, positionMask_getLsbD] <;>
    by_cases h : q = pos <;> simp [h]

@[simp] theorem analogReply_length (v : Slot) : (analogReply v).length = 2 := rfl

@[simp] theorem discreteReply_length (raw : Byte) : (discreteReply raw).length = 1 := rfl

end Sys2Proof.Machine
end

