-- ==== Sys2Proof/Laws/State.lean ====
section
/-! SUPPORT. What each named update of the state does to each field: one lemma per field per update. -/

namespace Sys2Proof.Machine

/-! ### `writeAnalog`: writing a slot -/

@[simp] theorem writeAnalog_A (s : State) (i : Fin 128) (v : Slot) :
    (writeAnalog s i v).A = s.A.set i.val v := rfl
@[simp] theorem writeAnalog_D (s : State) (i : Fin 128) (v : Slot) : (writeAnalog s i v).D = s.D := rfl
@[simp] theorem writeAnalog_phase (s : State) (i : Fin 128) (v : Slot) :
    (writeAnalog s i v).phase = s.phase := rfl
@[simp] theorem writeAnalog_fault (s : State) (i : Fin 128) (v : Slot) :
    (writeAnalog s i v).fault = s.fault := rfl
@[simp] theorem writeAnalog_fcause (s : State) (i : Fin 128) (v : Slot) :
    (writeAnalog s i v).fcause = s.fcause := rfl
@[simp] theorem writeAnalog_req (s : State) (i : Fin 128) (v : Slot) : (writeAnalog s i v).req = s.req := rfl
@[simp] theorem writeAnalog_unsent (s : State) (i : Fin 128) (v : Slot) :
    (writeAnalog s i v).unsent = s.unsent := rfl
@[simp] theorem writeAnalog_swObs (s : State) (i : Fin 128) (v : Slot) :
    (writeAnalog s i v).swObs = s.swObs := rfl
@[simp] theorem writeAnalog_tx (s : State) (i : Fin 128) (v : Slot) : (writeAnalog s i v).tx = s.tx := rfl
@[simp] theorem writeAnalog_results (s : State) (i : Fin 128) (v : Slot) :
    (writeAnalog s i v).results = s.results := rfl
@[simp] theorem writeAnalog_rx (s : State) (i : Fin 128) (v : Slot) : (writeAnalog s i v).rx = s.rx := rfl
@[simp] theorem writeAnalog_port (s : State) (i : Fin 128) (v : Slot) :
    (writeAnalog s i v).port = s.port := rfl
@[simp] theorem writeAnalog_resetReq (s : State) (i : Fin 128) (v : Slot) :
    (writeAnalog s i v).resetReq = s.resetReq := rfl
@[simp] theorem writeAnalog_txRoom (s : State) (i : Fin 128) (v : Slot) :
    (writeAnalog s i v).txRoom = s.txRoom := rfl
@[simp] theorem writeAnalog_turn (s : State) (i : Fin 128) (v : Slot) :
    (writeAnalog s i v).turn = s.turn := rfl

/-! ### `writeGroupBit`: writing one discrete bit -/

@[simp] theorem writeGroupBit_A (s : State) (g : Fin 48) (pos : Fin 8) (on : Bool) :
    (writeGroupBit s g pos on).A = s.A := rfl
@[simp] theorem writeGroupBit_D (s : State) (g : Fin 48) (pos : Fin 8) (on : Bool) :
    (writeGroupBit s g pos on).D = s.D.set g.val (setBit s.D[g.val] pos on) := rfl
@[simp] theorem writeGroupBit_phase (s : State) (g : Fin 48) (pos : Fin 8) (on : Bool) :
    (writeGroupBit s g pos on).phase = s.phase := rfl
@[simp] theorem writeGroupBit_fault (s : State) (g : Fin 48) (pos : Fin 8) (on : Bool) :
    (writeGroupBit s g pos on).fault = s.fault := rfl
@[simp] theorem writeGroupBit_fcause (s : State) (g : Fin 48) (pos : Fin 8) (on : Bool) :
    (writeGroupBit s g pos on).fcause = s.fcause := rfl
@[simp] theorem writeGroupBit_req (s : State) (g : Fin 48) (pos : Fin 8) (on : Bool) :
    (writeGroupBit s g pos on).req = s.req := rfl
@[simp] theorem writeGroupBit_unsent (s : State) (g : Fin 48) (pos : Fin 8) (on : Bool) :
    (writeGroupBit s g pos on).unsent = s.unsent := rfl
@[simp] theorem writeGroupBit_swObs (s : State) (g : Fin 48) (pos : Fin 8) (on : Bool) :
    (writeGroupBit s g pos on).swObs = s.swObs := rfl
@[simp] theorem writeGroupBit_tx (s : State) (g : Fin 48) (pos : Fin 8) (on : Bool) :
    (writeGroupBit s g pos on).tx = s.tx := rfl
@[simp] theorem writeGroupBit_results (s : State) (g : Fin 48) (pos : Fin 8) (on : Bool) :
    (writeGroupBit s g pos on).results = s.results := rfl
@[simp] theorem writeGroupBit_rx (s : State) (g : Fin 48) (pos : Fin 8) (on : Bool) :
    (writeGroupBit s g pos on).rx = s.rx := rfl
@[simp] theorem writeGroupBit_port (s : State) (g : Fin 48) (pos : Fin 8) (on : Bool) :
    (writeGroupBit s g pos on).port = s.port := rfl
@[simp] theorem writeGroupBit_resetReq (s : State) (g : Fin 48) (pos : Fin 8) (on : Bool) :
    (writeGroupBit s g pos on).resetReq = s.resetReq := rfl
@[simp] theorem writeGroupBit_txRoom (s : State) (g : Fin 48) (pos : Fin 8) (on : Bool) :
    (writeGroupBit s g pos on).txRoom = s.txRoom := rfl
@[simp] theorem writeGroupBit_turn (s : State) (g : Fin 48) (pos : Fin 8) (on : Bool) :
    (writeGroupBit s g pos on).turn = s.turn := rfl

/-! ### `deliverResult`: delivering a port result -/

@[simp] theorem deliverResult_A (s : State) (r : PortResult) : (deliverResult s r).A = s.A := rfl
@[simp] theorem deliverResult_D (s : State) (r : PortResult) : (deliverResult s r).D = s.D := rfl
@[simp] theorem deliverResult_phase (s : State) (r : PortResult) : (deliverResult s r).phase = s.phase := rfl
@[simp] theorem deliverResult_fault (s : State) (r : PortResult) : (deliverResult s r).fault = s.fault := rfl
@[simp] theorem deliverResult_fcause (s : State) (r : PortResult) :
    (deliverResult s r).fcause = s.fcause := rfl
@[simp] theorem deliverResult_req (s : State) (r : PortResult) : (deliverResult s r).req = s.req := rfl
@[simp] theorem deliverResult_unsent (s : State) (r : PortResult) :
    (deliverResult s r).unsent = s.unsent := rfl
@[simp] theorem deliverResult_swObs (s : State) (r : PortResult) : (deliverResult s r).swObs = s.swObs := rfl
@[simp] theorem deliverResult_tx (s : State) (r : PortResult) : (deliverResult s r).tx = s.tx := rfl
@[simp] theorem deliverResult_results (s : State) (r : PortResult) :
    (deliverResult s r).results = s.results ++ [r] := rfl
@[simp] theorem deliverResult_rx (s : State) (r : PortResult) : (deliverResult s r).rx = s.rx := rfl
@[simp] theorem deliverResult_port (s : State) (r : PortResult) : (deliverResult s r).port = s.port := rfl
@[simp] theorem deliverResult_resetReq (s : State) (r : PortResult) :
    (deliverResult s r).resetReq = s.resetReq := rfl
@[simp] theorem deliverResult_txRoom (s : State) (r : PortResult) :
    (deliverResult s r).txRoom = s.txRoom := rfl
@[simp] theorem deliverResult_turn (s : State) (r : PortResult) : (deliverResult s r).turn = s.turn := rfl

/-! ### `raisePortError`: taking a port error -/

@[simp] theorem raisePortError_A (s : State) (c : Cause) : (raisePortError s c).A = s.A := rfl
@[simp] theorem raisePortError_D (s : State) (c : Cause) : (raisePortError s c).D = s.D := rfl
@[simp] theorem raisePortError_phase (s : State) (c : Cause) : (raisePortError s c).phase = s.phase := rfl
@[simp] theorem raisePortError_fault (s : State) (c : Cause) : (raisePortError s c).fault = s.fault := rfl
@[simp] theorem raisePortError_fcause (s : State) (c : Cause) : (raisePortError s c).fcause = s.fcause := rfl
@[simp] theorem raisePortError_req (s : State) (c : Cause) : (raisePortError s c).req = s.req := rfl
@[simp] theorem raisePortError_unsent (s : State) (c : Cause) : (raisePortError s c).unsent = s.unsent := rfl
@[simp] theorem raisePortError_swObs (s : State) (c : Cause) : (raisePortError s c).swObs = s.swObs := rfl
@[simp] theorem raisePortError_tx (s : State) (c : Cause) : (raisePortError s c).tx = s.tx := rfl
@[simp] theorem raisePortError_results (s : State) (c : Cause) :
    (raisePortError s c).results = s.results ++ [.err c] := rfl
@[simp] theorem raisePortError_rx (s : State) (c : Cause) : (raisePortError s c).rx = s.rx := rfl
@[simp] theorem raisePortError_port (s : State) (c : Cause) : (raisePortError s c).port = s.port := rfl
@[simp] theorem raisePortError_resetReq (s : State) (c : Cause) :
    (raisePortError s c).resetReq = s.resetReq := rfl
@[simp] theorem raisePortError_txRoom (s : State) (c : Cause) : (raisePortError s c).txRoom = s.txRoom := rfl
@[simp] theorem raisePortError_turn (s : State) (c : Cause) : (raisePortError s c).turn = s.turn := rfl

/-! ### `showSwitch`: showing the switcher bit -/

@[simp] theorem showSwitch_A (s : State) (sw : Bool) : (showSwitch s sw).A = s.A := rfl
@[simp] theorem showSwitch_D (s : State) (sw : Bool) : (showSwitch s sw).D = s.D := rfl
@[simp] theorem showSwitch_phase (s : State) (sw : Bool) : (showSwitch s sw).phase = s.phase := rfl
@[simp] theorem showSwitch_fault (s : State) (sw : Bool) : (showSwitch s sw).fault = s.fault := rfl
@[simp] theorem showSwitch_fcause (s : State) (sw : Bool) : (showSwitch s sw).fcause = s.fcause := rfl
@[simp] theorem showSwitch_req (s : State) (sw : Bool) : (showSwitch s sw).req = s.req := rfl
@[simp] theorem showSwitch_unsent (s : State) (sw : Bool) : (showSwitch s sw).unsent = s.unsent := rfl
@[simp] theorem showSwitch_swObs (s : State) (sw : Bool) : (showSwitch s sw).swObs = sw := rfl
@[simp] theorem showSwitch_tx (s : State) (sw : Bool) : (showSwitch s sw).tx = s.tx := rfl
@[simp] theorem showSwitch_results (s : State) (sw : Bool) : (showSwitch s sw).results = s.results := rfl
@[simp] theorem showSwitch_rx (s : State) (sw : Bool) : (showSwitch s sw).rx = s.rx := rfl
@[simp] theorem showSwitch_port (s : State) (sw : Bool) : (showSwitch s sw).port = s.port := rfl
@[simp] theorem showSwitch_resetReq (s : State) (sw : Bool) : (showSwitch s sw).resetReq = s.resetReq := rfl
@[simp] theorem showSwitch_txRoom (s : State) (sw : Bool) : (showSwitch s sw).txRoom = s.txRoom := rfl
@[simp] theorem showSwitch_turn (s : State) (sw : Bool) : (showSwitch s sw).turn = s.turn := rfl

/-! ### `raiseWireFault`: taking the wire fault -/

@[simp] theorem raiseWireFault_A (s : State) (c : Cause) : (raiseWireFault s c).A = s.A := rfl
@[simp] theorem raiseWireFault_D (s : State) (c : Cause) : (raiseWireFault s c).D = s.D := rfl
@[simp] theorem raiseWireFault_phase (s : State) (c : Cause) : (raiseWireFault s c).phase = .dispatch := rfl
@[simp] theorem raiseWireFault_fault (s : State) (c : Cause) : (raiseWireFault s c).fault = true := rfl
@[simp] theorem raiseWireFault_fcause (s : State) (c : Cause) : (raiseWireFault s c).fcause = c.code := rfl
@[simp] theorem raiseWireFault_req (s : State) (c : Cause) : (raiseWireFault s c).req = s.req := rfl
@[simp] theorem raiseWireFault_unsent (s : State) (c : Cause) : (raiseWireFault s c).unsent = s.unsent := rfl
@[simp] theorem raiseWireFault_swObs (s : State) (c : Cause) : (raiseWireFault s c).swObs = s.swObs := rfl
@[simp] theorem raiseWireFault_tx (s : State) (c : Cause) : (raiseWireFault s c).tx = s.tx := rfl
@[simp] theorem raiseWireFault_results (s : State) (c : Cause) :
    (raiseWireFault s c).results = s.results := rfl
@[simp] theorem raiseWireFault_rx (s : State) (c : Cause) : (raiseWireFault s c).rx = s.rx := rfl
@[simp] theorem raiseWireFault_port (s : State) (c : Cause) : (raiseWireFault s c).port = s.port := rfl
@[simp] theorem raiseWireFault_resetReq (s : State) (c : Cause) :
    (raiseWireFault s c).resetReq = s.resetReq := rfl
@[simp] theorem raiseWireFault_txRoom (s : State) (c : Cause) : (raiseWireFault s c).txRoom = s.txRoom := rfl
@[simp] theorem raiseWireFault_turn (s : State) (c : Cause) : (raiseWireFault s c).turn = s.turn := rfl

/-! ### `handOver`: handing over reply bytes -/

@[simp] theorem handOver_A (s : State) : (handOver s).A = s.A := rfl
@[simp] theorem handOver_D (s : State) : (handOver s).D = s.D := rfl
@[simp] theorem handOver_phase (s : State) :
    (handOver s).phase = if (s.unsent.drop (taken s.txRoom s.unsent.length)).isEmpty then .waitByte else .dispatch := rfl
@[simp] theorem handOver_fault (s : State) : (handOver s).fault = s.fault := rfl
@[simp] theorem handOver_fcause (s : State) : (handOver s).fcause = s.fcause := rfl
@[simp] theorem handOver_req (s : State) :
    (handOver s).req = if (s.unsent.drop (taken s.txRoom s.unsent.length)).isEmpty then none else s.req := rfl
@[simp] theorem handOver_unsent (s : State) :
    (handOver s).unsent = s.unsent.drop (taken s.txRoom s.unsent.length) := rfl
@[simp] theorem handOver_swObs (s : State) : (handOver s).swObs = s.swObs := rfl
@[simp] theorem handOver_tx (s : State) :
    (handOver s).tx = s.tx ++ s.unsent.take (taken s.txRoom s.unsent.length) := rfl
@[simp] theorem handOver_results (s : State) : (handOver s).results = s.results := rfl
@[simp] theorem handOver_rx (s : State) : (handOver s).rx = s.rx := rfl
@[simp] theorem handOver_port (s : State) : (handOver s).port = s.port := rfl
@[simp] theorem handOver_resetReq (s : State) : (handOver s).resetReq = s.resetReq := rfl
@[simp] theorem handOver_txRoom (s : State) :
    (handOver s).txRoom = s.txRoom.map (· - taken s.txRoom s.unsent.length) := rfl
@[simp] theorem handOver_turn (s : State) : (handOver s).turn = s.turn := rfl

/-! ### `sendReply`: sending a reply -/

@[simp] theorem sendReply_A (s : State) (bytes : List Byte) : (sendReply s bytes).A = s.A := rfl
@[simp] theorem sendReply_D (s : State) (bytes : List Byte) : (sendReply s bytes).D = s.D := rfl
@[simp] theorem sendReply_phase (s : State) (bytes : List Byte) :
    (sendReply s bytes).phase = if ((s.unsent ++ bytes).drop (taken s.txRoom (s.unsent ++ bytes).length)).isEmpty then .waitByte
      else .dispatch := rfl
@[simp] theorem sendReply_fault (s : State) (bytes : List Byte) : (sendReply s bytes).fault = s.fault := rfl
@[simp] theorem sendReply_fcause (s : State) (bytes : List Byte) :
    (sendReply s bytes).fcause = s.fcause := rfl
@[simp] theorem sendReply_req (s : State) (bytes : List Byte) :
    (sendReply s bytes).req = if ((s.unsent ++ bytes).drop (taken s.txRoom (s.unsent ++ bytes).length)).isEmpty then none
      else s.req := rfl
@[simp] theorem sendReply_unsent (s : State) (bytes : List Byte) :
    (sendReply s bytes).unsent = (s.unsent ++ bytes).drop (taken s.txRoom (s.unsent ++ bytes).length) := rfl
@[simp] theorem sendReply_swObs (s : State) (bytes : List Byte) : (sendReply s bytes).swObs = s.swObs := rfl
@[simp] theorem sendReply_tx (s : State) (bytes : List Byte) :
    (sendReply s bytes).tx = s.tx ++ (s.unsent ++ bytes).take (taken s.txRoom (s.unsent ++ bytes).length) := rfl
@[simp] theorem sendReply_results (s : State) (bytes : List Byte) :
    (sendReply s bytes).results = s.results := rfl
@[simp] theorem sendReply_rx (s : State) (bytes : List Byte) : (sendReply s bytes).rx = s.rx := rfl
@[simp] theorem sendReply_port (s : State) (bytes : List Byte) : (sendReply s bytes).port = s.port := rfl
@[simp] theorem sendReply_resetReq (s : State) (bytes : List Byte) :
    (sendReply s bytes).resetReq = s.resetReq := rfl
@[simp] theorem sendReply_txRoom (s : State) (bytes : List Byte) :
    (sendReply s bytes).txRoom = s.txRoom.map (· - taken s.txRoom (s.unsent ++ bytes).length) := rfl
@[simp] theorem sendReply_turn (s : State) (bytes : List Byte) : (sendReply s bytes).turn = s.turn := rfl

/-! ### `resetEvent`: the reset event -/

@[simp] theorem resetEvent_A (s : State) : (resetEvent s).A = Vector.replicate 128 0#10 := rfl
@[simp] theorem resetEvent_D (s : State) : (resetEvent s).D = Vector.replicate 48 0#8 := rfl
@[simp] theorem resetEvent_phase (s : State) : (resetEvent s).phase = .waitByte := rfl
@[simp] theorem resetEvent_fault (s : State) : (resetEvent s).fault = false := rfl
@[simp] theorem resetEvent_fcause (s : State) : (resetEvent s).fcause = 0#2 := rfl
@[simp] theorem resetEvent_req (s : State) : (resetEvent s).req = none := rfl
@[simp] theorem resetEvent_unsent (s : State) : (resetEvent s).unsent = [] := rfl
@[simp] theorem resetEvent_swObs (s : State) : (resetEvent s).swObs = false := rfl
@[simp] theorem resetEvent_tx (s : State) : (resetEvent s).tx = [] := rfl
@[simp] theorem resetEvent_results (s : State) : (resetEvent s).results = [] := rfl
@[simp] theorem resetEvent_rx (s : State) : (resetEvent s).rx = s.rx := rfl
@[simp] theorem resetEvent_port (s : State) : (resetEvent s).port = s.port := rfl
@[simp] theorem resetEvent_resetReq (s : State) : (resetEvent s).resetReq = false := rfl
@[simp] theorem resetEvent_txRoom (s : State) : (resetEvent s).txRoom = s.txRoom := rfl
@[simp] theorem resetEvent_turn (s : State) : (resetEvent s).turn = s.turn := rfl

/-! ### `acceptByte`: taking a request byte -/

@[simp] theorem acceptByte_A (s : State) (b : Byte) (rest : List Byte) : (acceptByte s b rest).A = s.A := rfl
@[simp] theorem acceptByte_D (s : State) (b : Byte) (rest : List Byte) : (acceptByte s b rest).D = s.D := rfl
@[simp] theorem acceptByte_phase (s : State) (b : Byte) (rest : List Byte) :
    (acceptByte s b rest).phase = .dispatch := rfl
@[simp] theorem acceptByte_fault (s : State) (b : Byte) (rest : List Byte) :
    (acceptByte s b rest).fault = s.fault := rfl
@[simp] theorem acceptByte_fcause (s : State) (b : Byte) (rest : List Byte) :
    (acceptByte s b rest).fcause = s.fcause := rfl
@[simp] theorem acceptByte_req (s : State) (b : Byte) (rest : List Byte) :
    (acceptByte s b rest).req = some b := rfl
@[simp] theorem acceptByte_unsent (s : State) (b : Byte) (rest : List Byte) :
    (acceptByte s b rest).unsent = s.unsent := rfl
@[simp] theorem acceptByte_swObs (s : State) (b : Byte) (rest : List Byte) :
    (acceptByte s b rest).swObs = s.swObs := rfl
@[simp] theorem acceptByte_tx (s : State) (b : Byte) (rest : List Byte) :
    (acceptByte s b rest).tx = s.tx := rfl
@[simp] theorem acceptByte_results (s : State) (b : Byte) (rest : List Byte) :
    (acceptByte s b rest).results = s.results := rfl
@[simp] theorem acceptByte_rx (s : State) (b : Byte) (rest : List Byte) :
    (acceptByte s b rest).rx = rest := rfl
@[simp] theorem acceptByte_port (s : State) (b : Byte) (rest : List Byte) :
    (acceptByte s b rest).port = s.port := rfl
@[simp] theorem acceptByte_resetReq (s : State) (b : Byte) (rest : List Byte) :
    (acceptByte s b rest).resetReq = s.resetReq := rfl
@[simp] theorem acceptByte_txRoom (s : State) (b : Byte) (rest : List Byte) :
    (acceptByte s b rest).txRoom = s.txRoom := rfl
@[simp] theorem acceptByte_turn (s : State) (b : Byte) (rest : List Byte) :
    (acceptByte s b rest).turn = s.turn := rfl

/-! ### `takeCommand`: taking a port command -/

@[simp] theorem takeCommand_A (s : State) (rest : List Command) : (takeCommand s rest).A = s.A := rfl
@[simp] theorem takeCommand_D (s : State) (rest : List Command) : (takeCommand s rest).D = s.D := rfl
@[simp] theorem takeCommand_phase (s : State) (rest : List Command) :
    (takeCommand s rest).phase = s.phase := rfl
@[simp] theorem takeCommand_fault (s : State) (rest : List Command) :
    (takeCommand s rest).fault = s.fault := rfl
@[simp] theorem takeCommand_fcause (s : State) (rest : List Command) :
    (takeCommand s rest).fcause = s.fcause := rfl
@[simp] theorem takeCommand_req (s : State) (rest : List Command) : (takeCommand s rest).req = s.req := rfl
@[simp] theorem takeCommand_unsent (s : State) (rest : List Command) :
    (takeCommand s rest).unsent = s.unsent := rfl
@[simp] theorem takeCommand_swObs (s : State) (rest : List Command) :
    (takeCommand s rest).swObs = s.swObs := rfl
@[simp] theorem takeCommand_tx (s : State) (rest : List Command) : (takeCommand s rest).tx = s.tx := rfl
@[simp] theorem takeCommand_results (s : State) (rest : List Command) :
    (takeCommand s rest).results = s.results := rfl
@[simp] theorem takeCommand_rx (s : State) (rest : List Command) : (takeCommand s rest).rx = s.rx := rfl
@[simp] theorem takeCommand_port (s : State) (rest : List Command) : (takeCommand s rest).port = rest := rfl
@[simp] theorem takeCommand_resetReq (s : State) (rest : List Command) :
    (takeCommand s rest).resetReq = s.resetReq := rfl
@[simp] theorem takeCommand_txRoom (s : State) (rest : List Command) :
    (takeCommand s rest).txRoom = s.txRoom := rfl
@[simp] theorem takeCommand_turn (s : State) (rest : List Command) : (takeCommand s rest).turn = s.turn := rfl

/-! ### `nextTurn`: using up a choice of the schedule -/

@[simp] theorem nextTurn_A (s : State) : (nextTurn s).A = s.A := rfl
@[simp] theorem nextTurn_D (s : State) : (nextTurn s).D = s.D := rfl
@[simp] theorem nextTurn_phase (s : State) : (nextTurn s).phase = s.phase := rfl
@[simp] theorem nextTurn_fault (s : State) : (nextTurn s).fault = s.fault := rfl
@[simp] theorem nextTurn_fcause (s : State) : (nextTurn s).fcause = s.fcause := rfl
@[simp] theorem nextTurn_req (s : State) : (nextTurn s).req = s.req := rfl
@[simp] theorem nextTurn_unsent (s : State) : (nextTurn s).unsent = s.unsent := rfl
@[simp] theorem nextTurn_swObs (s : State) : (nextTurn s).swObs = s.swObs := rfl
@[simp] theorem nextTurn_tx (s : State) : (nextTurn s).tx = s.tx := rfl
@[simp] theorem nextTurn_results (s : State) : (nextTurn s).results = s.results := rfl
@[simp] theorem nextTurn_rx (s : State) : (nextTurn s).rx = s.rx := rfl
@[simp] theorem nextTurn_port (s : State) : (nextTurn s).port = s.port := rfl
@[simp] theorem nextTurn_resetReq (s : State) : (nextTurn s).resetReq = s.resetReq := rfl
@[simp] theorem nextTurn_txRoom (s : State) : (nextTurn s).txRoom = s.txRoom := rfl
@[simp] theorem nextTurn_turn (s : State) : (nextTurn s).turn = s.turn + 1 := rfl

/-! ### `State.deliver`: the arrival of a byte -/

@[simp] theorem State.deliver_A (s : State) (b : Byte) : (s.deliver b).A = s.A := rfl
@[simp] theorem State.deliver_D (s : State) (b : Byte) : (s.deliver b).D = s.D := rfl
@[simp] theorem State.deliver_phase (s : State) (b : Byte) : (s.deliver b).phase = s.phase := rfl
@[simp] theorem State.deliver_fault (s : State) (b : Byte) : (s.deliver b).fault = s.fault := rfl
@[simp] theorem State.deliver_fcause (s : State) (b : Byte) : (s.deliver b).fcause = s.fcause := rfl
@[simp] theorem State.deliver_req (s : State) (b : Byte) : (s.deliver b).req = s.req := rfl
@[simp] theorem State.deliver_unsent (s : State) (b : Byte) : (s.deliver b).unsent = s.unsent := rfl
@[simp] theorem State.deliver_swObs (s : State) (b : Byte) : (s.deliver b).swObs = s.swObs := rfl
@[simp] theorem State.deliver_tx (s : State) (b : Byte) : (s.deliver b).tx = s.tx := rfl
@[simp] theorem State.deliver_results (s : State) (b : Byte) : (s.deliver b).results = s.results := rfl
@[simp] theorem State.deliver_rx (s : State) (b : Byte) : (s.deliver b).rx = s.rx ++ [b] := rfl
@[simp] theorem State.deliver_port (s : State) (b : Byte) : (s.deliver b).port = s.port := rfl
@[simp] theorem State.deliver_resetReq (s : State) (b : Byte) : (s.deliver b).resetReq = s.resetReq := rfl
@[simp] theorem State.deliver_txRoom (s : State) (b : Byte) : (s.deliver b).txRoom = s.txRoom := rfl
@[simp] theorem State.deliver_turn (s : State) (b : Byte) : (s.deliver b).turn = s.turn := rfl

/-! ### `State.command`: the arrival of a command -/

@[simp] theorem State.command_A (s : State) (w : Command) : (s.command w).A = s.A := rfl
@[simp] theorem State.command_D (s : State) (w : Command) : (s.command w).D = s.D := rfl
@[simp] theorem State.command_phase (s : State) (w : Command) : (s.command w).phase = s.phase := rfl
@[simp] theorem State.command_fault (s : State) (w : Command) : (s.command w).fault = s.fault := rfl
@[simp] theorem State.command_fcause (s : State) (w : Command) : (s.command w).fcause = s.fcause := rfl
@[simp] theorem State.command_req (s : State) (w : Command) : (s.command w).req = s.req := rfl
@[simp] theorem State.command_unsent (s : State) (w : Command) : (s.command w).unsent = s.unsent := rfl
@[simp] theorem State.command_swObs (s : State) (w : Command) : (s.command w).swObs = s.swObs := rfl
@[simp] theorem State.command_tx (s : State) (w : Command) : (s.command w).tx = s.tx := rfl
@[simp] theorem State.command_results (s : State) (w : Command) : (s.command w).results = s.results := rfl
@[simp] theorem State.command_rx (s : State) (w : Command) : (s.command w).rx = s.rx := rfl
@[simp] theorem State.command_port (s : State) (w : Command) : (s.command w).port = s.port ++ [w] := rfl
@[simp] theorem State.command_resetReq (s : State) (w : Command) : (s.command w).resetReq = s.resetReq := rfl
@[simp] theorem State.command_txRoom (s : State) (w : Command) : (s.command w).txRoom = s.txRoom := rfl
@[simp] theorem State.command_turn (s : State) (w : Command) : (s.command w).turn = s.turn := rfl

/-! ### `State.askReset`: a pending reset -/

@[simp] theorem State.askReset_A (s : State) : (s.askReset).A = s.A := rfl
@[simp] theorem State.askReset_D (s : State) : (s.askReset).D = s.D := rfl
@[simp] theorem State.askReset_phase (s : State) : (s.askReset).phase = s.phase := rfl
@[simp] theorem State.askReset_fault (s : State) : (s.askReset).fault = s.fault := rfl
@[simp] theorem State.askReset_fcause (s : State) : (s.askReset).fcause = s.fcause := rfl
@[simp] theorem State.askReset_req (s : State) : (s.askReset).req = s.req := rfl
@[simp] theorem State.askReset_unsent (s : State) : (s.askReset).unsent = s.unsent := rfl
@[simp] theorem State.askReset_swObs (s : State) : (s.askReset).swObs = s.swObs := rfl
@[simp] theorem State.askReset_tx (s : State) : (s.askReset).tx = s.tx := rfl
@[simp] theorem State.askReset_results (s : State) : (s.askReset).results = s.results := rfl
@[simp] theorem State.askReset_rx (s : State) : (s.askReset).rx = s.rx := rfl
@[simp] theorem State.askReset_port (s : State) : (s.askReset).port = s.port := rfl
@[simp] theorem State.askReset_resetReq (s : State) : (s.askReset).resetReq = true := rfl
@[simp] theorem State.askReset_txRoom (s : State) : (s.askReset).txRoom = s.txRoom := rfl
@[simp] theorem State.askReset_turn (s : State) : (s.askReset).turn = s.turn := rfl

/-! ### `State.load`: the arrival of an initialization load's commands -/

@[simp] theorem State.load_A (s : State) (rs : List LoadRecord) :
    (s.load rs).A = s.A := rfl
@[simp] theorem State.load_D (s : State) (rs : List LoadRecord) :
    (s.load rs).D = s.D := rfl
@[simp] theorem State.load_phase (s : State) (rs : List LoadRecord) :
    (s.load rs).phase = s.phase := rfl
@[simp] theorem State.load_fault (s : State) (rs : List LoadRecord) :
    (s.load rs).fault = s.fault := rfl
@[simp] theorem State.load_fcause (s : State) (rs : List LoadRecord) :
    (s.load rs).fcause = s.fcause := rfl
@[simp] theorem State.load_req (s : State) (rs : List LoadRecord) :
    (s.load rs).req = s.req := rfl
@[simp] theorem State.load_unsent (s : State) (rs : List LoadRecord) :
    (s.load rs).unsent = s.unsent := rfl
@[simp] theorem State.load_swObs (s : State) (rs : List LoadRecord) :
    (s.load rs).swObs = s.swObs := rfl
@[simp] theorem State.load_tx (s : State) (rs : List LoadRecord) :
    (s.load rs).tx = s.tx := rfl
@[simp] theorem State.load_results (s : State) (rs : List LoadRecord) :
    (s.load rs).results = s.results := rfl
@[simp] theorem State.load_rx (s : State) (rs : List LoadRecord) :
    (s.load rs).rx = s.rx := rfl
@[simp] theorem State.load_port (s : State) (rs : List LoadRecord) :
    (s.load rs).port = s.port ++ rs.filterMap LoadRecord.command? := rfl
@[simp] theorem State.load_resetReq (s : State) (rs : List LoadRecord) :
    (s.load rs).resetReq = s.resetReq := rfl
@[simp] theorem State.load_txRoom (s : State) (rs : List LoadRecord) :
    (s.load rs).txRoom = s.txRoom := rfl
@[simp] theorem State.load_turn (s : State) (rs : List LoadRecord) :
    (s.load rs).turn = s.turn := rfl

/-! ### `State.setTxRoom`: a change of the transport's readiness -/

@[simp] theorem State.setTxRoom_A (s : State) (room : Option Nat) : (s.setTxRoom room).A = s.A := rfl
@[simp] theorem State.setTxRoom_D (s : State) (room : Option Nat) : (s.setTxRoom room).D = s.D := rfl
@[simp] theorem State.setTxRoom_phase (s : State) (room : Option Nat) :
    (s.setTxRoom room).phase = s.phase := rfl
@[simp] theorem State.setTxRoom_fault (s : State) (room : Option Nat) :
    (s.setTxRoom room).fault = s.fault := rfl
@[simp] theorem State.setTxRoom_fcause (s : State) (room : Option Nat) :
    (s.setTxRoom room).fcause = s.fcause := rfl
@[simp] theorem State.setTxRoom_req (s : State) (room : Option Nat) : (s.setTxRoom room).req = s.req := rfl
@[simp] theorem State.setTxRoom_unsent (s : State) (room : Option Nat) :
    (s.setTxRoom room).unsent = s.unsent := rfl
@[simp] theorem State.setTxRoom_swObs (s : State) (room : Option Nat) :
    (s.setTxRoom room).swObs = s.swObs := rfl
@[simp] theorem State.setTxRoom_tx (s : State) (room : Option Nat) : (s.setTxRoom room).tx = s.tx := rfl
@[simp] theorem State.setTxRoom_results (s : State) (room : Option Nat) :
    (s.setTxRoom room).results = s.results := rfl
@[simp] theorem State.setTxRoom_rx (s : State) (room : Option Nat) : (s.setTxRoom room).rx = s.rx := rfl
@[simp] theorem State.setTxRoom_port (s : State) (room : Option Nat) : (s.setTxRoom room).port = s.port := rfl
@[simp] theorem State.setTxRoom_resetReq (s : State) (room : Option Nat) :
    (s.setTxRoom room).resetReq = s.resetReq := rfl
@[simp] theorem State.setTxRoom_txRoom (s : State) (room : Option Nat) :
    (s.setTxRoom room).txRoom = room := rfl
@[simp] theorem State.setTxRoom_turn (s : State) (room : Option Nat) : (s.setTxRoom room).turn = s.turn := rfl

/-! ### `placeRequest`: placing a request -/

@[simp] theorem placeRequest_A (s : State) (b : Byte) : (placeRequest s b).A = s.A := rfl
@[simp] theorem placeRequest_D (s : State) (b : Byte) : (placeRequest s b).D = s.D := rfl
@[simp] theorem placeRequest_phase (s : State) (b : Byte) : (placeRequest s b).phase = .dispatch := rfl
@[simp] theorem placeRequest_fault (s : State) (b : Byte) : (placeRequest s b).fault = s.fault := rfl
@[simp] theorem placeRequest_fcause (s : State) (b : Byte) : (placeRequest s b).fcause = s.fcause := rfl
@[simp] theorem placeRequest_req (s : State) (b : Byte) : (placeRequest s b).req = some b := rfl
@[simp] theorem placeRequest_unsent (s : State) (b : Byte) : (placeRequest s b).unsent = [] := rfl
@[simp] theorem placeRequest_swObs (s : State) (b : Byte) : (placeRequest s b).swObs = s.swObs := rfl
@[simp] theorem placeRequest_tx (s : State) (b : Byte) : (placeRequest s b).tx = s.tx := rfl
@[simp] theorem placeRequest_results (s : State) (b : Byte) : (placeRequest s b).results = s.results := rfl
@[simp] theorem placeRequest_rx (s : State) (b : Byte) : (placeRequest s b).rx = s.rx := rfl
@[simp] theorem placeRequest_port (s : State) (b : Byte) : (placeRequest s b).port = [] := rfl
@[simp] theorem placeRequest_resetReq (s : State) (b : Byte) : (placeRequest s b).resetReq = false := rfl
@[simp] theorem placeRequest_txRoom (s : State) (b : Byte) : (placeRequest s b).txRoom = s.txRoom := rfl
@[simp] theorem placeRequest_turn (s : State) (b : Byte) : (placeRequest s b).turn = s.turn := rfl

/-! ### `placeCommand`: placing a command -/

@[simp] theorem placeCommand_A (s : State) (w : Command) : (placeCommand s w).A = s.A := rfl
@[simp] theorem placeCommand_D (s : State) (w : Command) : (placeCommand s w).D = s.D := rfl
@[simp] theorem placeCommand_phase (s : State) (w : Command) : (placeCommand s w).phase = .waitByte := rfl
@[simp] theorem placeCommand_fault (s : State) (w : Command) : (placeCommand s w).fault = s.fault := rfl
@[simp] theorem placeCommand_fcause (s : State) (w : Command) : (placeCommand s w).fcause = s.fcause := rfl
@[simp] theorem placeCommand_req (s : State) (w : Command) : (placeCommand s w).req = none := rfl
@[simp] theorem placeCommand_unsent (s : State) (w : Command) : (placeCommand s w).unsent = [] := rfl
@[simp] theorem placeCommand_swObs (s : State) (w : Command) : (placeCommand s w).swObs = s.swObs := rfl
@[simp] theorem placeCommand_tx (s : State) (w : Command) : (placeCommand s w).tx = s.tx := rfl
@[simp] theorem placeCommand_results (s : State) (w : Command) : (placeCommand s w).results = s.results := rfl
@[simp] theorem placeCommand_rx (s : State) (w : Command) : (placeCommand s w).rx = [] := rfl
@[simp] theorem placeCommand_port (s : State) (w : Command) : (placeCommand s w).port = w :: s.port := rfl
@[simp] theorem placeCommand_resetReq (s : State) (w : Command) : (placeCommand s w).resetReq = false := rfl
@[simp] theorem placeCommand_txRoom (s : State) (w : Command) : (placeCommand s w).txRoom = s.txRoom := rfl
@[simp] theorem placeCommand_turn (s : State) (w : Command) : (placeCommand s w).turn = s.turn := rfl

/-! ### `State.reset` -/

@[simp] theorem State.reset_A : State.reset.A = Vector.replicate 128 0#10 := rfl
@[simp] theorem State.reset_D : State.reset.D = Vector.replicate 48 0#8 := rfl
@[simp] theorem State.reset_phase : State.reset.phase = .waitByte := rfl
@[simp] theorem State.reset_fault : State.reset.fault = false := rfl
@[simp] theorem State.reset_fcause : State.reset.fcause = 0#2 := rfl
@[simp] theorem State.reset_req : State.reset.req = none := rfl
@[simp] theorem State.reset_unsent : State.reset.unsent = [] := rfl
@[simp] theorem State.reset_swObs : State.reset.swObs = false := rfl
@[simp] theorem State.reset_tx : State.reset.tx = [] := rfl
@[simp] theorem State.reset_results : State.reset.results = [] := rfl
@[simp] theorem State.reset_rx : State.reset.rx = [] := rfl
@[simp] theorem State.reset_port : State.reset.port = [] := rfl
@[simp] theorem State.reset_resetReq : State.reset.resetReq = false := rfl
@[simp] theorem State.reset_txRoom : State.reset.txRoom = none := rfl
@[simp] theorem State.reset_turn : State.reset.turn = 0 := rfl

end Sys2Proof.Machine
end

