-- ==== Sys2Proof/Laws/Ops.lean ====
section
/-! SUPPORT. One lemma per shared operation over the state: what it can do, once. -/

namespace Sys2Proof.Machine

/-! ### Admission -/

theorem admitted_eq_next {s s' t : State} : admitted s s' = .next t ↔ s.fault = false ∧ s' = t := by
  unfold admitted; cases s.fault <;> simp

theorem admitted_of_unfaulted {s : State} (h : s.fault = false) (s' : State) : admitted s s' = .next s' := by
  simp [admitted, h]

theorem admitted_of_faulted {s : State} (h : s.fault = true) (s' : State) :
    admitted s s' = .fault .blockFaulted := by
  simp [admitted, h]

/-! ### The store: read after write -/

theorem readAnalog_writeAnalog (s : State) (i j : Fin 128) (v : Slot) :
    readAnalog (writeAnalog s i v) j = if i = j then v else readAnalog s j := by
  simp only [readAnalog, writeAnalog_A, Vector.getElem_set, Fin.ext_iff]

theorem readGroup_writeGroupBit (s : State) (g g' : Fin 48) (pos : Fin 8) (on : Bool) :
    readGroup (writeGroupBit s g pos on) g' = if g = g' then setBit (readGroup s g) pos on else readGroup s g' := by
  simp only [readGroup, writeGroupBit_D, Vector.getElem_set, Fin.ext_iff]

theorem readGroup_writeGroupBit_getLsbD (s : State) (g g' : Fin 48) (pos q : Fin 8) (on : Bool) :
    (readGroup (writeGroupBit s g pos on) g').getLsbD q.val =
      if g = g' ∧ q = pos then on else (readGroup s g').getLsbD q.val := by
  rw [readGroup_writeGroupBit]
  by_cases h : g = g'
  · subst h; simp only [if_true, true_and, setBit_getLsbD]
  · simp [h]

/-! ### Emission -/

theorem taken_le (room : Option Nat) (n : Nat) : taken room n ≤ n := by
  cases room <;> simp [taken]

@[simp] theorem taken_none (n : Nat) : taken none n = n := rfl

@[simp] theorem taken_some (k n : Nat) : taken (some k) n = min k n := rfl

/-- Nothing is lost and nothing reordered: what was transmitted and what is unsent make the same stream. -/
theorem sendReply_stream (s : State) (bytes : List Byte) :
    (sendReply s bytes).tx ++ (sendReply s bytes).unsent = s.tx ++ s.unsent ++ bytes := by
  simp only [sendReply_tx, sendReply_unsent, List.append_assoc, List.take_append_drop]

theorem handOver_stream (s : State) : (handOver s).tx ++ (handOver s).unsent = s.tx ++ s.unsent := by
  simp only [handOver_tx, handOver_unsent, List.append_assoc, List.take_append_drop]

/-- With nothing left to send, the transaction is over. -/
theorem handOver_done {s : State} (h : (handOver s).unsent = []) :
    (handOver s).phase = .waitByte ∧ (handOver s).req = none := by
  simp only [handOver_unsent] at h
  simp only [handOver, h]
  exact ⟨rfl, rfl⟩

/-- With a transport that takes every byte the whole reply goes out and the transaction ends. -/
theorem sendReply_of_room {s : State} (hu : s.unsent = []) (hr : s.txRoom = none) (bytes : List Byte) :
    sendReply s bytes = { s with tx := s.tx ++ bytes, phase := .waitByte, req := none } := by
  simp [sendReply, handOver, hu, hr]

/-! ### Reset -/

theorem resetEvent_readAnalog (s : State) (i : Fin 128) : readAnalog (resetEvent s) i = 0#10 := by
  simp [readAnalog]

theorem resetEvent_readGroup (s : State) (g : Fin 48) : readGroup (resetEvent s) g = 0#8 := by
  simp [readGroup]

/-! ### The initialization load -/

/-- Which records are issued, and as what: those whose operands fit the port, as their `SETA`. -/
theorem LoadRecord.command?_eq (r : LoadRecord) :
    r.command? =
      if -32768 ≤ r.address ∧ r.address < 32768 ∧ 0 ≤ r.value ∧ r.value < 65536 then
        some (commandWord 0#2 r.address (BitVec.ofNat 16 r.value.toNat))
      else none := by
  by_cases hv : 0 ≤ r.value
  · have hw : (Instr.seta r.address r.value.toNat).wellFormed = true ↔
        -32768 ≤ r.address ∧ r.address < 32768 ∧ 0 ≤ r.value ∧ r.value < 65536 := by
      simp [Instr.wellFormed, fitsPortAddr, fitsPortData, Config.portDataW]
      omega
    simp only [command?, operation?, if_pos hv, Instr.toCode?, hw, Option.bind_eq_bind, Option.bind_some]
    split <;> rfl
  · rw [if_neg (by omega)]
    simp [command?, operation?, hv]

/-- A load is commands issued one after another. -/
theorem State.load_eq_foldl (s : State) (records : List LoadRecord) :
    s.load records = (records.filterMap LoadRecord.command?).foldl State.command s := by
  have h : ∀ (ws : List Command) (s : State), ws.foldl State.command s = { s with port := s.port ++ ws } := by
    intro ws
    induction ws with
    | nil => intro s; simp
    | cons w ws ih => intro s; simp [ih, State.command]
  rw [h]
  rfl

end Sys2Proof.Machine
end

