-- ==== Sys2Proof/Laws/PerInstr.lean ====
section
/-! SUPPORT. Statements about every instruction as syntax, one lemma per constructor. -/

namespace Sys2Proof.Laws

/-- A code comes from a side: request bytes from the wire, command words from the port. -/
def codeSide : Code → Side
  | .request _ => .wire
  | .command _ => .port

/-- The encoder writes a wire operation as a request byte and a port operation as a command word
(30_encoding.md R50, R63). -/
def EncodedOnItsSide.Statement (i : Instr) : Prop := codeSide (encode i) = i.side

theorem EncodedOnItsSide.rda (idx : Fin 128) : EncodedOnItsSide.Statement (.rda idx) := rfl

theorem EncodedOnItsSide.rddInvalid (g : BitVec 6) (sw : Bool) : EncodedOnItsSide.Statement (.rddInvalid g sw) := rfl

theorem EncodedOnItsSide.rdd (g : Fin 48) (sw : Bool) : EncodedOnItsSide.Statement (.rdd g sw) := rfl

theorem EncodedOnItsSide.seta (address : Int) (value : Nat) : EncodedOnItsSide.Statement (.seta address value) := rfl

theorem EncodedOnItsSide.geta (address : Int) : EncodedOnItsSide.Statement (.geta address) := rfl

theorem EncodedOnItsSide.setdb (bitAddr : Int) (on : Bool) : EncodedOnItsSide.Statement (.setdb bitAddr on) := rfl

theorem EncodedOnItsSide.getdg (group : Int) : EncodedOnItsSide.Statement (.getdg group) := rfl

end Sys2Proof.Laws
end

