-- ==== Sys2Proof/Laws/Step.lean ====
section
/-! SUPPORT. What a step can be, said once, and what an operation can do to the state. -/

namespace Sys2Proof.Machine

/-! ### Operations -/

/-- An operation with a next state was admitted; a port operation then delivers one result over the tables, a
wire operation sends a reply or takes the wire fault. -/
theorem exec_port_shape {i : Instr} {s t : State} (hi : i.side = .port) (h : exec i s = .next t) :
    s.fault = false ∧ ∃ A D r, t = { s with A := A, D := D, results := s.results ++ [r] } := by
  cases i with
  | rda | rddInvalid | rdd => simp [Instr.side] at hi
  | seta a v =>
    obtain ⟨hf, rfl⟩ := admitted_eq_next.mp h
    refine ⟨hf, ?_⟩
    split
    · exact ⟨_, s.D, .ok, rfl⟩
    · exact ⟨s.A, s.D, .err .analogAddressRange, rfl⟩
  | geta a =>
    obtain ⟨hf, rfl⟩ := admitted_eq_next.mp h
    refine ⟨hf, s.A, s.D, ?_⟩
    split
    · exact ⟨_, rfl⟩
    · exact ⟨.err .analogAddressRange, rfl⟩
  | setdb b on =>
    obtain ⟨hf, rfl⟩ := admitted_eq_next.mp h
    refine ⟨hf, ?_⟩
    split
    · exact ⟨s.A, _, .ok, rfl⟩
    · exact ⟨s.A, s.D, .err .discreteBitAddressRange, rfl⟩
  | getdg g =>
    obtain ⟨hf, rfl⟩ := admitted_eq_next.mp h
    refine ⟨hf, s.A, s.D, ?_⟩
    split
    · exact ⟨_, rfl⟩
    · exact ⟨.err .discreteGroupRange, rfl⟩

/-- An operation is admitted exactly when FAULT = 0, and then has a next state. -/
theorem exec_next_of_unfaulted (i : Instr) {s : State} (h : s.fault = false) : ∃ t, exec i s = .next t := by
  cases i <;> exact ⟨_, admitted_of_unfaulted h _⟩

/-! ### Steps -/

/-- What the wire side's move can be. -/
theorem wireAction_cases {s : State} {a : Action} (h : wireAction s = some a) :
    (∃ b rest, s.phase = .waitByte ∧ s.rx = b :: rest ∧ a = .move (acceptByte s b rest)) ∨
    (∃ b, s.phase = .dispatch ∧ s.unsent = [] ∧ s.req = some b ∧ a = .run (decodeRequest b).toInstr s) ∨
    (s.phase = .dispatch ∧ s.unsent ≠ [] ∧ s.txRoom ≠ some 0 ∧ a = .move (handOver s)) := by
  unfold wireAction at h
  split at h
  case h_1 hp =>
    split at h
    · cases h
    case h_2 b rest hr => cases h; exact .inl ⟨b, rest, hp, hr, rfl⟩
  case h_2 hp =>
    split at h
    case h_1 hu =>
      cases hq : s.req with
      | none => simp [hq] at h
      | some b => simp only [hq, Option.map_some, Option.some.injEq] at h; exact .inr (.inl ⟨b, hp, hu, rfl, h.symm⟩)
    case h_2 x xs hu =>
      split at h
      case isTrue ht =>
        cases h
        exact .inr (.inr ⟨hp, by simp [hu], by simpa [txReady] using ht, rfl⟩)
      case isFalse => cases h

/-- What the port side's move can be. -/
theorem portAction_cases {s : State} {a : Action} (h : portAction s = some a) :
    ∃ w rest, s.port = w :: rest ∧ a = .run (decodeCommand w) (takeCommand s rest) := by
  unfold portAction at h
  split at h
  · cases h
  case h_2 w rest hp => cases h; exact ⟨w, rest, hp, rfl⟩

/-- Serialising: the block waits, or one side moves, on the state itself or with the schedule's counter advanced. -/
theorem serialise_cases (s : State) :
    (wireAction s = none ∧ portAction s = none ∧ serialise s = .move s) ∨
    ∃ s', (s' = s ∨ s' = nextTurn s) ∧
      (wireAction s' = some (serialise s) ∨ portAction s' = some (serialise s)) := by
  unfold serialise
  cases hw : wireAction s with
  | none =>
    cases hp : portAction s with
    | none => exact .inl ⟨rfl, rfl, rfl⟩
    | some a => exact .inr ⟨s, .inl rfl, .inr hp⟩
  | some a =>
    cases hp : portAction s with
    | none => exact .inr ⟨s, .inl rfl, .inl hw⟩
    | some a' =>
      refine .inr ⟨nextTurn s, .inr rfl, ?_⟩
      have hw' : ∃ x, wireAction (nextTurn s) = some x := by
        rcases wireAction_cases hw with ⟨b, rest, h1, h2, -⟩ | ⟨b, h1, h2, h3, -⟩ | ⟨h1, h2, h3, -⟩
        · simp [wireAction, h1, h2]
        · simp [wireAction, h1, h2, h3]
        · obtain ⟨x, xs, hx⟩ := List.exists_cons_of_ne_nil h2
          simp [wireAction, h1, hx, txReady, h3]
      have hp' : ∃ x, portAction (nextTurn s) = some x := by
        obtain ⟨w, rest, h1, -⟩ := portAction_cases hp
        simp [portAction, h1]
      obtain ⟨x, hx⟩ := hw'
      obtain ⟨y, hy⟩ := hp'
      dsimp only
      split
      · exact .inl (by simp [hx])
      · exact .inr (by simp [hy])

/-- A next step that is a move, and one that runs an operation. -/
theorem step_of_move {s s' : State} (h : nextAction s = .move s') : step s = .next s' := by unfold step; rw [h]

theorem step_of_run {s s' : State} {i : Instr} (h : nextAction s = .run i s') : step s = exec i s' := by
  unfold step; rw [h]

/-- THE CASES OF A STEP: reset; the stop over a standing FAULT; waiting; and, on the state itself or with the
schedule's counter advanced, a byte taken, a held request run, bytes handed over, or a command run. -/
theorem step_cases (s : State) :
    (s.resetReq = true ∧ step s = .next (resetEvent s)) ∨
    (s.resetReq = false ∧ s.fault = true ∧ step s = .fault .blockFaulted) ∨
    (s.resetReq = false ∧ s.fault = false ∧
      (step s = .next s ∨
       ∃ s', (s' = s ∨ s' = nextTurn s) ∧
        ((∃ b rest, s.phase = .waitByte ∧ s.rx = b :: rest ∧ step s = .next (acceptByte s' b rest)) ∨
         (∃ b, s.phase = .dispatch ∧ s.unsent = [] ∧ s.req = some b ∧
            step s = exec (decodeRequest b).toInstr s') ∨
         (s.phase = .dispatch ∧ s.unsent ≠ [] ∧ s.txRoom ≠ some 0 ∧ step s = .next (handOver s')) ∨
         (∃ w rest, s.port = w :: rest ∧ step s = exec (decodeCommand w) (takeCommand s' rest))))) := by
  unfold step nextAction
  cases hr : s.resetReq with
  | true => simp
  | false =>
    cases hf : s.fault with
    | true => simp
    | false =>
      refine .inr (.inr ⟨rfl, rfl, ?_⟩)
      simp only [Bool.false_eq_true, if_false]
      rcases serialise_cases s with ⟨-, -, h⟩ | ⟨s', hs', h | h⟩
      · exact .inl (by rw [h])
      · refine .inr ⟨s', hs', ?_⟩
        have e : s'.phase = s.phase ∧ s'.rx = s.rx ∧ s'.unsent = s.unsent ∧ s'.req = s.req ∧ s'.txRoom = s.txRoom := by
          rcases hs' with rfl | rfl <;> simp
        obtain ⟨e1, e2, e3, e4, e5⟩ := e
        rcases wireAction_cases h with ⟨b, rest, h1, h2, h3⟩ | ⟨b, h1, h2, h3, h4⟩ | ⟨h1, h2, h3, h4⟩
        · exact .inl ⟨b, rest, e1 ▸ h1, e2 ▸ h2, by rw [h3]⟩
        · exact .inr (.inl ⟨b, e1 ▸ h1, e3 ▸ h2, e4 ▸ h3, by rw [h4]⟩)
        · exact .inr (.inr (.inl ⟨e1 ▸ h1, e3 ▸ h2, e5 ▸ h3, by rw [h4]⟩))
      · refine .inr ⟨s', hs', .inr (.inr (.inr ?_))⟩
        obtain ⟨w, rest, h1, h2⟩ := portAction_cases h
        refine ⟨w, rest, ?_, by rw [h2]⟩
        rcases hs' with rfl | rfl <;> simpa using h1

/-- The same, from the next state: what it can be and under which conditions. -/
theorem step_next_cases {s t : State} (h : step s = .next t) :
    (s.resetReq = true ∧ t = resetEvent s) ∨
    (s.resetReq = false ∧ s.fault = false ∧
      (t = s ∨
       ∃ s', (s' = s ∨ s' = nextTurn s) ∧
        ((∃ b rest, s.phase = .waitByte ∧ s.rx = b :: rest ∧ t = acceptByte s' b rest) ∨
         (∃ b, s.phase = .dispatch ∧ s.unsent = [] ∧ s.req = some b ∧
            exec (decodeRequest b).toInstr s' = .next t) ∨
         (s.phase = .dispatch ∧ s.unsent ≠ [] ∧ s.txRoom ≠ some 0 ∧ t = handOver s') ∨
         (∃ w rest, s.port = w :: rest ∧ exec (decodeCommand w) (takeCommand s' rest) = .next t)))) := by
  rcases step_cases s with ⟨hr, e⟩ | ⟨-, -, e⟩ | ⟨hr, hf, e⟩
  · exact .inl ⟨hr, by rw [e] at h; cases h; rfl⟩
  · rw [e] at h; cases h
  · refine .inr ⟨hr, hf, ?_⟩
    rcases e with e | ⟨s', hs, ⟨b, rest, h1, h2, e⟩ | ⟨b, h1, h2, h3, e⟩ | ⟨h1, h2, h3, e⟩ | ⟨w, rest, h1, e⟩⟩
    all_goals rw [e] at h
    · cases h; exact .inl rfl
    · cases h; exact .inr ⟨s', hs, .inl ⟨b, rest, h1, h2, rfl⟩⟩
    · exact .inr ⟨s', hs, .inr (.inl ⟨b, h1, h2, h3, h⟩)⟩
    · cases h; exact .inr ⟨s', hs, .inr (.inr (.inl ⟨h1, h2, h3, rfl⟩))⟩
    · exact .inr ⟨s', hs, .inr (.inr (.inr ⟨w, rest, h1, h⟩))⟩

/-! ### Runs -/

theorem core_run_succ (M : Host.Core) (k : Nat) (s : M.State) :
    M.run (k + 1) s = match M.step s with
      | .next s' => M.run k s'
      | .fault r => .fault r
      | .refused r => .refused r := rfl

theorem core_run_succ_of_next {M : Host.Core} {s t : M.State} (h : M.step s = .next t) (k : Nat) :
    M.run (k + 1) s = M.run k t := by
  rw [core_run_succ, h]

theorem core_run_succ_of_fault {M : Host.Core} {s : M.State} {r : M.Fault} (h : M.step s = .fault r) (k : Nat) :
    M.run (k + 1) s = .fault r := by
  rw [core_run_succ, h]

/-- One step of a run of this machine. -/
theorem run_succ_of_next {s t : State} (h : step s = .next t) (k : Nat) :
    Sys2Proof.core.run (k + 1) s = Sys2Proof.core.run k t :=
  core_run_succ_of_next (M := Sys2Proof.core) h k

theorem run_succ_of_fault {s : State} {r : Fault} (h : step s = .fault r) (k : Nat) :
    Sys2Proof.core.run (k + 1) s = .fault r :=
  core_run_succ_of_fault (M := Sys2Proof.core) h k

end Sys2Proof.Machine
end

