-- ==== Sys2Proof/Tests/Slice0.lean ====
section
/-! SUPPORT. The model's own tests. Expected values come from spec/95_test_vectors.md (V<n>, S<n>, P<n>) or from hand
calculation with the rule named; witnesses show that the hypotheses of each obligation can be met. -/

namespace Sys2Proof.Tests

open Sys2Proof Sys2Proof.Machine

/-- The next state of an outcome, where there is one. -/
def nextOf (o : Host.Outcome State Fault Refusal) : Option State :=
  match o with
  | .next s => some s
  | .fault _ => none
  | .refused _ => none

/-- The reset state with one slot loaded. -/
def withSlot (i : Fin 128) (v : Slot) : State := writeAnalog State.reset i v

/-- The reset state with one group loaded. -/
def withGroup (g : Fin 48) (raw : Byte) : State := { State.reset with D := State.reset.D.set g.val raw }

/-- The reset state holding a request in Dispatch. -/
def holding (b : Byte) : State := { State.reset with phase := .dispatch, req := some b }

/-- A stopped block (V102). -/
def stopped : State := { State.reset with phase := .dispatch, req := some 0x30#8, fault := true, fcause := 3#2 }

/-- An analog reply held up after its first byte. -/
def heldUp : State := { State.reset with phase := .dispatch, req := some 0x84#8, unsent := [0x0F#8], txRoom := some 0 }

/-! ## Well-formedness: an ill-formed term for each check -/

theorem test_wellFormed_refuses_group_47_as_invalid : (Instr.rddInvalid 47#6 false).wellFormed = false := by decide

theorem test_wellFormed_accepts_group_48_as_invalid : (Instr.rddInvalid 48#6 true).wellFormed = true := by decide

theorem test_wellFormed_refuses_address_32768 : (Instr.seta 32768 0).wellFormed = false := by decide

theorem test_wellFormed_refuses_value_65536 : (Instr.seta 1 65536).wellFormed = false := by decide

theorem test_wellFormed_refuses_geta_below_range : (Instr.geta (-32769)).wellFormed = false := by decide

theorem test_wellFormed_refuses_setdb_32768 : (Instr.setdb 32768 true).wellFormed = false := by decide

theorem test_wellFormed_refuses_getdg_32768 : (Instr.getdg 32768).wellFormed = false := by decide

theorem test_no_code_for_what_the_port_cannot_carry :
    (Instr.seta 32768 0).toCode? = none ∧ (Instr.seta (-32768) 0).toCode? ≠ none := by decide

/-! ## Decoding: words written out from the encodings -/

/-- V11: 0x84 = 1 0000100. -/
theorem test_decode_rda : decodeTableWord 8 0x84 = some (.rda 4) := by decide

/-- V6: 0x68 = 0 1 101000. -/
theorem test_decode_rdd : decodeTableWord 8 0x68 = some (.rdd 40 true) := by decide

/-- V2 and V3: the last legal group and the first illegal one. -/
theorem test_decode_rdd_boundary :
    decodeTableWord 8 0x2F = some (.rdd 47 false) ∧ decodeTableWord 8 0x30 = some (.rddInvalid 48#6 false) := by decide

/-- V9: 0x7F = 0 1 111111. -/
theorem test_decode_rddInvalid : decodeTableWord 8 0x7F = some (.rddInvalid 63#6 true) := by decide

/-- P3 step 1: op 00, addr 0x0080, data 0xFFFF. -/
theorem test_decode_seta : decodeTableWord 40 0x00080FFFF = some (.seta 128 65535) := by decide

/-- P1 step 5 with a nonzero ignored data field: op 01, addr 0x0005. -/
theorem test_decode_geta : decodeTableWord 40 0x100051234 = some (.geta 5) := by decide

/-- P2 step 3: op 10, addr 0x0180, data 1; with data 2 only bit 0 counts (D18). -/
theorem test_decode_setdb :
    decodeTableWord 40 0x201800001 = some (.setdb 384 true) ∧
      decodeTableWord 40 0x201800002 = some (.setdb 384 false) := by decide

/-- op 11, addr 0xFFFF: the address is signed, -1 (V84). -/
theorem test_decode_getdg : decodeTableWord 40 0x3FFFF0000 = some (.getdg (-1)) := by decide

/-- What is no byte, or no 34-bit word, is rejected by name. -/
theorem test_decode_rejects_by_name :
    codeOfBits 8 256 = .error .notAByte ∧ codeOfBits 40 (2 ^ 34) = .error .notACommand ∧
      codeOfBits 0 0 = .error .noBits := ⟨rfl, rfl, rfl⟩

/-- S6, S5 and V47: the pure functions on the source's own examples. -/
theorem test_source_examples :
    encodeAnalog 1000#10 = (0xE8#8, 0x0F#8) ∧ encodeDiscrete 0x05#8 = 0xFA#8 ∧ bitSlot 137 = some (40, 2) := by decide

/-! ## One step or one operation -/

/-- V94: byte order, low6 first. -/
theorem test_rda_reply : (nextOf (exec (.rda 4) (withSlot 4 1000#10))).map (·.tx) = some [0xE8#8, 0x0F#8] := by decide

/-- V97: bit 6 of the request belongs to the index; the reply's high part is not zero. -/
theorem test_rda_bit6_is_index :
    (nextOf (exec (decode (.request 0xC0#8)) (withSlot 64 64#10))).map (·.tx) = some [0xC0#8, 0x01#8] := by decide

/-- V100. -/
theorem test_rdd_reply : (nextOf (exec (.rdd 0 false) (withGroup 0 0x05#8))).map (·.tx) = some [0xFA#8] := by decide

/-- V99: the switcher bit is shown and does nothing else. -/
theorem test_rdd_switcher :
    (nextOf (exec (.rdd 40 true) (withGroup 40 0x04#8))).map (fun t => (t.tx, t.swObs)) =
      some ([0xFB#8], true) := by decide

/-- V102. -/
theorem test_rddInvalid_fault :
    (nextOf (exec (.rddInvalid 48#6 false) (holding 0x30#8))).map (fun t => (t.fault, t.fcause, t.phase, t.tx)) =
      some (true, 3#2, .dispatch, []) := by decide

/-- V103, through the step: 0x7F held. -/
theorem test_step_runs_rddInvalid :
    (nextOf (step (holding 0x7F#8))).map (fun t => (t.fault, t.fcause)) = some (true, 3#2) := by decide

/-- V67: 1061 = 1024 + 37. -/
theorem test_seta_masks : (nextOf (exec (.seta 5 1061) State.reset)).map (·.A[4]) = some 37#10 := by decide

/-- V63: refused, no wrap and no clamp. -/
theorem test_seta_out_of_range :
    (nextOf (exec (.seta 129 7) State.reset)).map (fun t => (t.A[0], t.A[127], t.results)) =
      some (0#10, 0#10, [.err .analogAddressRange]) := by decide

/-- V70. -/
theorem test_geta_reads_slot_below :
    (nextOf (exec (.geta 5) (withSlot 4 1000#10))).map (·.results) = some [.data 1000#10] := by decide

/-- V71. -/
theorem test_geta_zero_is_refused :
    (nextOf (exec (.geta 0) State.reset)).map (·.results) = some [.err .analogAddressRange] := by decide

/-- V78: clearing one bit of 0x06 leaves 0x02. -/
theorem test_setdb_clears_one_bit :
    (nextOf (exec (.setdb 137 false) (withGroup 40 0x06#8))).map (·.D[40]) = some 0x02#8 := by decide

/-- V76. -/
theorem test_setdb_out_of_range :
    (nextOf (exec (.setdb 385 true) State.reset)).map (fun t => (t.D[0], t.results)) =
      some (0#8, [.err .discreteBitAddressRange]) := by decide

/-- V81: raw, not complemented. -/
theorem test_getdg_raw :
    (nextOf (exec (.getdg 40) (withGroup 40 0x84#8))).map (·.results) = some [.data 0x84#10] := by decide

/-- V84. -/
theorem test_getdg_negative :
    (nextOf (exec (.getdg (-1)) State.reset)).map (·.results) = some [.err .discreteGroupRange] := by decide

/-- V104: with FAULT = 1 the byte is not taken. -/
theorem test_step_stopped : nextOf (step { stopped with rx := [0x80#8] }) = none := rfl

/-- V106: reset puts a stopped block right. -/
theorem test_step_reset_of_stopped :
    (nextOf (step stopped.askReset)).map (fun t => (t.fault, t.fcause, t.phase, t.req)) =
      some (false, 0#2, .waitByte, none) := by decide

/-- R111: one byte is taken, the later one stays. -/
theorem test_step_takes_one_byte :
    (nextOf (step ((State.reset.deliver 0x84#8).deliver 0x85#8))).map (fun t => (t.phase, t.req, t.rx)) =
      some (.dispatch, some 0x84#8, [0x85#8]) := by decide

/-- The second half of a reply goes out when the transport has room (R120). -/
theorem test_step_hands_over :
    (nextOf (step (heldUp.setTxRoom (some 1)))).map (fun t => (t.tx, t.unsent, t.phase, t.req, t.txRoom)) =
      some ([0x0F#8], [], .waitByte, none, some 0) := by decide

/-- A placed operation is the next step (log 11). -/
theorem test_withFetchWord_request :
    (nextOf (step (State.reset.withFetchWord 8 0x80))).map (·.tx) = some [0xC0#8, 0x00#8] := by decide

theorem test_withFetchWord_command :
    (nextOf (step (State.reset.withFetchWord 40 0x0000503E8))).map (fun t => (t.A[4], t.port)) =
      some (1000#10, []) := by decide

/-! ## Witnesses: the hypotheses of each obligation are met, for each clause at its boundaries -/

theorem witness_DecodeOfEncodeIsTheInstruction :
    (Instr.seta (-32768) 65535).wellFormed = true ∧ (Instr.getdg 32767).wellFormed = true ∧
      (Instr.rddInvalid 48#6 true).wellFormed = true := by decide

theorem witness_EncodeOfDecodedCommandClearsIgnoredData :
    commandOp 0x0000503E8#34 = 0#2 ∧ commandOp 0x200890003#34 = 2#2 ∧ commandOp 0x100050007#34 = 1#2 ∧
      commandOp 0x300280001#34 = 3#2 := by decide

theorem witness_BitAddressMappingIsBijection :
    (1 ≤ (1 : Int) ∧ (1 : Int) ≤ 384) ∧ (1 ≤ (384 : Int) ∧ (384 : Int) ≤ 384) ∧
      addressToSlot 137 (by decide) = addressToSlot 137 (by decide) := by decide

theorem witness_SetaStoresMaskedValueOrRefuses :
    commandOp 0x00080FFFF#34 = 0#2 ∧ State.reset.fault = false ∧
      (1 ≤ (1 : Int) ∧ (1 : Int) ≤ 128) ∧ (1 ≤ (128 : Int) ∧ (128 : Int) ≤ 128) ∧
      ((0 : Int) < 1 ∨ 128 < (0 : Int)) ∧ ((129 : Int) < 1 ∨ 128 < (129 : Int)) := by decide

theorem witness_GetaReturnsSlotOrRefuses :
    commandOp 0x100050000#34 = 1#2 ∧ State.reset.fault = false ∧
      (((0 : Fin 128).val : Int) = 1 - 1) ∧ (((127 : Fin 128).val : Int) = 128 - 1) ∧
      ((0 : Int) < 1 ∨ 128 < (0 : Int)) ∧ ((129 : Int) < 1 ∨ 128 < (129 : Int)) := by decide

theorem witness_SetdbWritesOneBitOrRefuses :
    commandOp 0x200890001#34 = 2#2 ∧ State.reset.fault = false ∧
      (1 ≤ (1 : Int) ∧ (1 : Int) ≤ 384) ∧ (1 ≤ (384 : Int) ∧ (384 : Int) ≤ 384) ∧
      ((0 : Int) < 1 ∨ 384 < (0 : Int)) ∧ ((385 : Int) < 1 ∨ 384 < (385 : Int)) := by decide

theorem witness_GetdgReturnsRawGroupOrRefuses :
    commandOp 0x300280000#34 = 3#2 ∧ State.reset.fault = false ∧
      (((0 : Fin 48).val : Int) = 0) ∧ (((47 : Fin 48).val : Int) = 47) ∧
      ((-1 : Int) < 0 ∨ 47 < (-1 : Int)) ∧ ((48 : Int) < 0 ∨ 47 < (48 : Int)) := by decide

theorem witness_PortOperationsOnlyTouchTablesAndResults :
    (Instr.seta 1 7).side = .port ∧ ∃ t, exec (.seta 1 7) State.reset = .next t := ⟨rfl, _, rfl⟩

theorem witness_StoreLaws :
    State.reset.fault = false ∧ (∃ t, exec (.seta 1 7) State.reset = .next t) ∧ (1 : Fin 128) ≠ 0 ∧
      (∃ t, exec (.setdb 384 true) State.reset = .next t) ∧ (1 : Int) ≠ 384 ∧
      (∃ t, exec (.seta 0 7) State.reset = .next t ∧
        t.results = State.reset.results ++ [.err .analogAddressRange]) :=
  ⟨rfl, ⟨_, rfl⟩, by decide, ⟨_, rfl⟩, by decide, ⟨_, rfl, rfl⟩⟩

theorem witness_SetdbOfDifferentSignalsCommute :
    (137 : Int) ≠ 89 ∧ ∃ t u t' u', exec (.setdb 137 true) State.reset = .next t ∧ exec (.setdb 89 true) t = .next u ∧
      exec (.setdb 89 true) State.reset = .next t' ∧ exec (.setdb 137 true) t' = .next u' :=
  ⟨by decide, _, _, _, _, rfl, rfl, rfl, rfl⟩

theorem witness_ReadsHaveNoSideEffects :
    (∃ t, exec (.geta 5) State.reset = .next t) ∧ (∃ t, exec (.getdg 47) State.reset = .next t) ∧
      (∃ t, exec (.rda 127) (holding 0xFF#8) = .next t) ∧ (∃ t, exec (.rdd 47 true) (holding 0x6F#8) = .next t) ∧
      (holding 0xFF#8).unsent = [] ∧ (holding 0xFF#8).txRoom = none :=
  ⟨⟨_, rfl⟩, ⟨_, rfl⟩, ⟨_, rfl⟩, ⟨_, rfl⟩, rfl, rfl⟩

theorem witness_PortErrorChangesNothing :
    ∃ t, exec (.getdg 48) State.reset = .next t ∧
      t.results = State.reset.results ++ [.err .discreteGroupRange] := ⟨_, rfl, rfl⟩

theorem witness_RdaAnswersSlotWithTwoBytes :
    (holding 0xFF#8).fault = false ∧ (holding 0xFF#8).unsent = [] ∧ (holding 0xFF#8).txRoom = none ∧
      (0xFF#8).toNat = 128 + (127 : Fin 128).val := by decide

theorem witness_RddAnswersGroupWithComplement :
    (holding 0x6F#8).fault = false ∧ (holding 0x6F#8).unsent = [] ∧ (holding 0x6F#8).txRoom = none ∧
      (0x6F#8).toNat = (if true then 64 else 0) + (47 : Fin 48).val := by decide

theorem witness_InvalidRequestTakesWireFault : (holding 0x30#8).fault = false := by decide

theorem witness_ReplyWaitsForTransport :
    ∀ k ∈ [0, 1, 2, 3], ({ holding 0x84#8 with txRoom := some k }).fault = false ∧
      ({ holding 0x84#8 with txRoom := some k }).unsent = [] ∧
      ({ holding 0x84#8 with txRoom := some k }).txRoom = some k := by decide

theorem witness_WireOperationsNeverWriteTheStore :
    (Instr.rda 0).side = .wire ∧ (∃ t, exec (.rda 0) (holding 0x80#8) = .next t) ∧
      (∃ t, exec (.rdd 0 false) (holding 0x00#8) = .next t) ∧
      (∃ t, exec (.rddInvalid 63#6 true) (holding 0x7F#8) = .next t) := ⟨rfl, ⟨_, rfl⟩, ⟨_, rfl⟩, ⟨_, rfl⟩⟩

theorem witness_SwitcherBitHasNoEffect : State.reset.fault = false := rfl

theorem witness_SetaIsPolledAtIndexOneBelow :
    State.reset.fault = false ∧ State.reset.unsent = [] ∧ State.reset.txRoom = none ∧
      ∃ t u, exec (.seta 128 1000) State.reset = .next t ∧ exec (.rda 127) t = .next u :=
  ⟨rfl, rfl, rfl, _, _, rfl, rfl⟩

theorem witness_SetdbIsPolledInverted :
    State.reset.fault = false ∧ State.reset.unsent = [] ∧ State.reset.txRoom = none ∧
      ∃ t u, exec (.setdb 384 true) State.reset = .next t ∧
        exec (.rdd (addressToSlot 384 (by decide)).1 false) t = .next u :=
  ⟨rfl, rfl, rfl, _, _, rfl, rfl⟩

theorem witness_AnalogReplyIsNotTorn :
    let s := { holding 0x89#8 with txRoom := some 1 }
    s.fault = false ∧ s.unsent = [] ∧ s.txRoom = some 1 ∧ s.resetReq = false ∧ s.port = [] ∧
      (Instr.seta 10 682).side = .port := ⟨rfl, rfl, rfl, rfl, rfl, rfl⟩

theorem witness_StepRunsHeldRequest :
    let s := holding 0x84#8
    s.resetReq = false ∧ s.fault = false ∧ s.phase = .dispatch ∧ s.unsent = [] ∧ s.req = some 0x84#8 ∧ s.port = [] := by
  decide

theorem witness_StepRunsOldestCommand :
    let s := State.reset.command 0x0000503E8#34
    let h := heldUp.command 0x0000503E8#34
    (s.resetReq = false ∧ s.fault = false ∧ s.port = [0x0000503E8#34] ∧ s.phase = .waitByte ∧ s.rx = []) ∧
      (h.resetReq = false ∧ h.fault = false ∧ h.port = [0x0000503E8#34] ∧
        h.phase = .dispatch ∧ h.unsent ≠ [] ∧ h.txRoom = some 0) := by decide

theorem witness_RequestByteTakenOnlyInWaitByte :
    let s := State.reset.deliver 0x84#8
    s.resetReq = false ∧ s.fault = false ∧ s.phase = .waitByte ∧ s.rx = [0x84#8] ∧ s.port = [] ∧
      ∃ t, step s = .next t := ⟨rfl, rfl, rfl, rfl, rfl, _, rfl⟩

theorem witness_UnsentBytesAreHandedOver :
    (∀ room ∈ [none, some 1, some 2], let s := heldUp.setTxRoom room
      s.resetReq = false ∧ s.fault = false ∧ s.phase = .dispatch ∧ s.unsent ≠ [] ∧ s.port = [] ∧
        s.txRoom = room) := by decide

theorem witness_EitherSideMayGoFirst :
    let s := (State.reset.deliver 0x89#8).command 0x0000A02AA#34
    let h := (holding 0x89#8).command 0x0000A02AA#34
    let u := (heldUp.setTxRoom none).command 0x0000A02AA#34
    (s.resetReq = false ∧ s.fault = false ∧ s.port = [0x0000A02AA#34] ∧ s.phase = .waitByte ∧ s.rx = [0x89#8]) ∧
      (h.resetReq = false ∧ h.fault = false ∧ h.port = [0x0000A02AA#34] ∧ h.phase = .dispatch ∧
        h.req = some 0x89#8 ∧ h.unsent = []) ∧
      (u.resetReq = false ∧ u.fault = false ∧ u.port = [0x0000A02AA#34] ∧ u.phase = .dispatch ∧
        u.unsent ≠ [] ∧ u.txRoom = none) ∧
      (∀ k ∈ [1, 2], let v := u.setTxRoom (some k)
        v.resetReq = false ∧ v.fault = false ∧ v.port = [0x0000A02AA#34] ∧ v.phase = .dispatch ∧
          v.unsent ≠ [] ∧ v.txRoom = some k) := by decide

theorem witness_BlockWaitsUnchanged :
    (State.reset.resetReq = false ∧ State.reset.fault = false ∧ State.reset.port = [] ∧
      State.reset.phase = .waitByte ∧ State.reset.rx = []) ∧
    (heldUp.resetReq = false ∧ heldUp.fault = false ∧ heldUp.port = [] ∧
      heldUp.phase = .dispatch ∧ heldUp.unsent ≠ [] ∧ heldUp.txRoom = some 0) := by decide

theorem witness_PlacedOperationRunsNext : State.reset.fault = false := rfl

theorem witness_FaultedBlockHasNoStepButReset :
    stopped.fault = true ∧ stopped.resetReq = false ∧ stopped.askReset.fault = true ∧
      stopped.askReset.resetReq = true := by decide

theorem witness_OnlyStandingFaultStopsTheBlock :
    State.reset.fault = false ∧ stopped.fault = true ∧ stopped.resetReq = false := by decide

theorem witness_OnlyIllegalRequestSetsFault :
    (∃ t, step (holding 0x30#8) = .next t ∧ t.fault = true) ∧ (∃ t, step (holding 0x2F#8) = .next t ∧ t.fault = false) ∧
      (holding 0x30#8).fault = false ∧ (holding 0x30#8).resetReq = false ∧ (holding 0x2F#8).fault = false ∧
      (holding 0x2F#8).resetReq = false := ⟨⟨_, rfl, rfl⟩, ⟨_, rfl, rfl⟩, rfl, rfl, rfl, rfl⟩

theorem witness_OnlyResetClearsFault : stopped.askReset.fault = true ∧ ∃ t, step stopped.askReset = .next t :=
  ⟨rfl, _, rfl⟩

theorem witness_ResetPutsStateToResetValues :
    stopped.askReset.resetReq = true ∧ heldUp.askReset.resetReq = true := by decide

theorem witness_ResetLeavesInputsWithSenders :
    let s := ((heldUp.deliver 0x80#8).command 0x0000503E8#34).askReset
    s.resetReq = true ∧ ∃ t, step s = .next t := ⟨rfl, _, rfl⟩

/-- A state in which another slot was written, polled at the first and the last request byte of each class. -/
theorem witness_UnwrittenChannelsAnswerZeroValue :
    let s := writeAnalog State.reset 4 1000#10
    (s.fault = false ∧ s.unsent = [] ∧ s.txRoom = none ∧ readAnalog s 4 ≠ 0#10) ∧
    ∀ b ∈ [0x00#8, 0x6F#8, 0x80#8, 0xFF#8], illegalRequest b = false ∧
      (∀ i : Fin 128, b.toNat = 128 + i.val → readAnalog s i = 0#10) ∧
      (∀ g : Fin 48, b.toNat < 128 → b.toNat % 64 = g.val → readGroup s g = 0#8) := by
  refine ⟨by decide, fun b hb => ⟨?_, fun i hi => ?_, fun g _ _ => ?_⟩⟩
  · revert b; decide
  · rw [readAnalog_writeAnalog, if_neg]
    · simp [readAnalog, State.reset]
    · rintro rfl
      revert b; decide
  · simp [readGroup, State.reset]

/-- A step that changes `A` and one that changes `D`. -/
theorem witness_TablesChangeOnlyThroughAccessors :
    let s := State.reset.command 0x0000503E8#34
    let d := State.reset.command 0x200890001#34
    s.resetReq = false ∧ d.resetReq = false ∧
      (∃ t, step s = .next t ∧ t.A ≠ s.A) ∧ (∃ t, step d = .next t ∧ t.D ≠ d.D) := by
  refine ⟨rfl, rfl, ⟨_, rfl, fun h => ?_⟩, ⟨_, rfl, fun h => ?_⟩⟩
  · exact absurd (congrArg (fun A : Vector Slot 128 => A[4]) h) (by decide)
  · exact absurd (congrArg (fun D : Vector Byte 48 => D[40]) h) (by decide)

theorem witness_OutputsOnlyGrow : (holding 0x84#8).resetReq = false ∧ ∃ t, step (holding 0x84#8) = .next t :=
  ⟨rfl, _, rfl⟩

/-- Both alternatives of the first clause occur, and the reset clause's premise. -/
theorem witness_SwitchOutputFollowsDiscreteRequests :
    (∃ t, step (holding 0x40#8) = .next t ∧ t.swObs = true) ∧ (∃ t, step State.reset = .next t) ∧
      (holding 0x40#8).resetReq = false ∧ (∃ t, step stopped.askReset = .next t) ∧ stopped.askReset.resetReq = true :=
  ⟨⟨_, rfl, rfl⟩, ⟨_, rfl⟩, rfl, ⟨_, rfl⟩, rfl⟩

theorem witness_HandshakesGuardTheStep :
    (∃ t, step (State.reset.deliver 0x84#8) = .next t ∧ t.rx ≠ (State.reset.deliver 0x84#8).rx) ∧
      (∃ t, step (State.reset.command 0#34) = .next t ∧ t.port ≠ (State.reset.command 0#34).port) ∧
      (∃ t, step (heldUp.setTxRoom none) = .next t) ∧ txData (heldUp.setTxRoom none) = some 0x0F#8 ∧
      (heldUp.setTxRoom none).resetReq = false :=
  ⟨⟨_, rfl, by decide⟩, ⟨_, rfl, by decide⟩, ⟨_, rfl⟩, rfl, rfl⟩

/-- A state in the middle of a reply has the invariant, and a step. -/
theorem witness_StepKeepsInvariant : (heldUp.setTxRoom none).Inv ∧ ∃ t, step (heldUp.setTxRoom none) = .next t := by
  refine ⟨⟨by decide, fun _ => ⟨0x84#8, rfl, ?_⟩, by decide, fun _ => rfl⟩, _, rfl⟩
  have h : decodeRequest 0x84#8 = .analog 4 := by decide
  unfold ReplyInProgress
  rw [h]
  exact ⟨1000#10, .inr (.inl (by decide))⟩

/-- A reachable state with a request held. -/
theorem witness_ReachableStatesHaveInvariant :
    ∃ s, Reachable s ∧ s.req = some 0x84#8 := by
  have h : step (State.reset.deliver 0x84#8) = .next (acceptByte (State.reset.deliver 0x84#8) 0x84#8 []) := rfl
  exact ⟨_, .step (.deliver .reset 0x84#8) h, rfl⟩

theorem witness_LegalTrafficNeverStops : ({ holding 0x84#8 with rx := [0x00#8, 0xFF#8] }).LegalTraffic where
  noFault := rfl
  held := by intro b h; cases h; decide
  waiting := by decide

theorem witness_TransactionIsPoll :
    ∀ b ∈ [0x84#8, 0x68#8, 0x30#8], (State.reset.deliver b).WireQuiet ∧ (State.reset.deliver b).rx = [b] :=
  fun _ _ => ⟨⟨rfl, rfl, rfl, rfl, rfl, rfl, rfl⟩, rfl⟩

theorem witness_TransmitStreamIsConcatenationOfReplies :
    ((State.reset.deliver 0x84#8).deliver 0x68#8).WireQuiet ∧
      ((State.reset.deliver 0x84#8).deliver 0x68#8).rx = [0x84#8, 0x68#8] ∧
      ∀ b ∈ [0x84#8, 0x68#8], illegalRequest b = false :=
  ⟨⟨rfl, rfl, rfl, rfl, rfl, rfl, rfl⟩, rfl, by decide⟩

theorem witness_EveryCommandIsAnswered :
    let s := (State.reset.command 0x0000503E8#34).command 0x100050000#34
    s.resetReq = false ∧ s.fault = false ∧ s.phase = .waitByte ∧ s.rx = [] ∧
      s.port = [0x0000503E8#34, 0x100050000#34] := by decide

/-- Records at the boundaries of the address range, of the port's widths, and twice at one address. -/
def loadRecords : List LoadRecord :=
  [⟨0, 1⟩, ⟨1, 2⟩, ⟨128, 65535⟩, ⟨129, 7⟩, ⟨5, 1000⟩, ⟨5, 1025⟩, ⟨32767, 8⟩, ⟨-32768, 8⟩, ⟨65537, 7⟩, ⟨-32769, 8⟩,
    ⟨1, 65536⟩, ⟨1, -1⟩]

theorem witness_LoadLeavesLastValueOfEachAddress :
    (loadRecords.take 8 = loadRecords.filter fun r =>
      decide (-32768 ≤ r.address ∧ r.address < 32768 ∧ 0 ≤ r.value ∧ r.value < 65536)) ∧
      State.reset.resetReq = false ∧ State.reset.fault = false ∧ State.reset.phase = .waitByte ∧
      State.reset.rx = [] ∧ State.reset.port = [] := by decide

/-- 50_interfaces.md R136: the line "5 1000 # comment" becomes SETA 5, 1000. -/
theorem test_load_record_word : (LoadRecord.mk 5 1000).command? = some 0x0000503E8#34 := by decide

/-- 93_implementation_defined.md U14: refused, not converted to SETA 1, 7 or to another value. -/
theorem test_load_refuses_what_does_not_fit :
    [LoadRecord.mk 65537 7, LoadRecord.mk 65541 7, LoadRecord.mk 1 65536, LoadRecord.mk 1 (-1)].filterMap
      LoadRecord.command? = [] := by decide

/-- The request held. -/
theorem holding_Inv : (holding 0x84#8).Inv := by
  refine ⟨by decide, fun _ => ⟨0x84#8, rfl, ?_⟩, by decide, fun _ => rfl⟩
  have h : decodeRequest 0x84#8 = .analog 4 := by decide
  unfold ReplyInProgress
  rw [h]
  exact ⟨0#10, .inr (.inr rfl)⟩

theorem witness_StepAddsReplyOfOldestRequest :
    (holding 0x84#8).Inv ∧ (holding 0x84#8).resetReq = false ∧ ∃ t, step (holding 0x84#8) = .next t :=
  ⟨holding_Inv, rfl, _, rfl⟩

/-- A run in which a request is served. -/
theorem witness_RunTransmitsRepliesInRequestOrder :
    (holding 0x84#8).Inv ∧ (holding 0x84#8).resetReq = false ∧
      ∃ t, Sys2Proof.core.run 1 (holding 0x84#8) = .next t ∧ t.tx = [0xC0#8, 0x00#8] :=
  ⟨holding_Inv, rfl, _, rfl, by decide⟩

end Sys2Proof.Tests
end

section
/-! PROOFS. Placing an operation for the next step (log 11): the code placed, the side that then has a move, and
the step. -/

namespace Sys2Proof

/-! ### The code of a byte and of a command word -/

theorem codeOfBits_request (b : Byte) : codeOfBits 8 b.toNat = .ok (.request b) := by
  rw [codeOfBits, if_neg (by decide), if_pos (by decide), if_pos b.isLt, BitVec.ofNat_toNat, BitVec.setWidth_eq]

theorem codeOfBits_command (w : Command) : codeOfBits 40 w.toNat = .ok (.command w) := by
  rw [codeOfBits, if_neg (by decide), if_neg (by decide), if_pos w.isLt, BitVec.ofNat_toNat, BitVec.setWidth_eq]

end Sys2Proof

namespace Sys2Proof.Machine

theorem withFetchWord_request (s : State) (b : Byte) : s.withFetchWord 8 b.toNat = placeRequest s b := by
  rw [State.withFetchWord, placeCode, codeOfBits_request]

theorem withFetchWord_command (s : State) (w : Command) : s.withFetchWord 40 w.toNat = placeCommand s w := by
  rw [State.withFetchWord, placeCode, codeOfBits_command]

/-! ### The next action where only one side has a move -/

/-- With no reset pending and FAULT = 0 the two sides are serialised (60_exceptions.md R158). -/
theorem nextAction_eq_serialise {s : State} (hr : s.resetReq = false) (hf : s.fault = false) :
    nextAction s = serialise s := by
  simp [nextAction, hr, hf]

theorem serialise_of_only_wire {s : State} {a : Action} (hw : wireAction s = some a) (hp : portAction s = none) :
    serialise s = a := by
  rw [serialise, hw, hp]

theorem serialise_of_only_port {s : State} {a : Action} (hw : wireAction s = none) (hp : portAction s = some a) :
    serialise s = a := by
  rw [serialise, hw, hp]

/-- In Dispatch with no reply begun, the wire side runs the held request (42_responder.md R112, R113, R114). -/
theorem wireAction_of_held {s : State} {b : Byte} (hd : s.phase = .dispatch) (hu : s.unsent = [])
    (hq : s.req = some b) : wireAction s = some (.run (decode (.request b)) s) := by
  simp [wireAction, hd, hu, hq, decode]

/-- In WaitByte with no byte waiting, the wire side has no move (70_reset_and_hazards.md R180). -/
theorem wireAction_of_no_byte {s : State} (hw : s.phase = .waitByte) (hx : s.rx = []) : wireAction s = none := by
  simp [wireAction, hw, hx]

theorem portAction_of_no_command {s : State} (hp : s.port = []) : portAction s = none := by
  simp [portAction, hp]

theorem portAction_of_command {s : State} {w : Command} {rest : List Command} (hp : s.port = w :: rest) :
    portAction s = some (.run (decode (.command w)) (takeCommand s rest)) := by
  simp [portAction, hp, decode]

/-! ### The step after placing -/

theorem step_placeRequest {s : State} (hf : s.fault = false) (b : Byte) :
    step (placeRequest s b) = exec (decode (.request b)) (placeRequest s b) := by
  have hwire := wireAction_of_held (placeRequest_phase s b) (placeRequest_unsent s b) (placeRequest_req s b)
  have hport := portAction_of_no_command (placeRequest_port s b)
  apply step_of_run
  rw [nextAction_eq_serialise (placeRequest_resetReq s b) hf, serialise_of_only_wire hwire hport]

theorem step_placeCommand {s : State} (hf : s.fault = false) (w : Command) :
    step (placeCommand s w) = exec (decode (.command w)) (takeCommand (placeCommand s w) s.port) := by
  have hwire := wireAction_of_no_byte (placeCommand_phase s w) (placeCommand_rx s w)
  have hport := portAction_of_command (placeCommand_port s w)
  apply step_of_run
  rw [nextAction_eq_serialise (placeCommand_resetReq s w) hf, serialise_of_only_port hwire hport]

/-- Settles O35: placing leaves a move to the placed operation's side only, so no choice of the schedule is made. -/
theorem placedOperationRunsNext : Obligations.PlacedOperationRunsNext := by
  intro s hf
  constructor
  · intro b
    rw [withFetchWord_request, step_placeRequest hf]
  · intro w
    refine ⟨takeCommand (placeCommand s w) s.port, ?_, ?_, ?_, ?_⟩
    · rw [withFetchWord_command, step_placeCommand hf]
    · simp
    · simp
    · simp

end Sys2Proof.Machine
end

section
/-! PROOFS. The request byte read in arithmetic, and the operation of a held request: the reply of a legal one, the
wire fault of an illegal one. -/

namespace Sys2Proof

/-! ### The fields of a request byte -/

theorem requestIdx_val (b : Byte) : (requestIdx b).val = b.toNat % 128 := by
  have mask : b.toNat &&& 127 = b.toNat % 2 ^ 7 := Nat.and_two_pow_sub_one_eq_mod b.toNat 7
  simp [requestIdx, mask]

theorem requestGroupField_toNat (b : Byte) : (requestGroupField b).toNat = b.toNat % 64 := by
  have mask : b.toNat &&& 63 = b.toNat % 2 ^ 6 := Nat.and_two_pow_sub_one_eq_mod b.toNat 6
  calc (requestGroupField b).toNat
      _ = (b.toNat &&& 63) % 64 := by rw [requestGroupField, BitVec.toNat_setWidth]; rfl
      _ = b.toNat % 64 := by omega

/-- The class bit, as a bound on the byte (30_encoding.md R51). -/
theorem requestClass_eq (b : Byte) : b.getLsbD 7 = decide (128 ≤ b.toNat) :=
  (BitVec.msb_eq_getLsbD_last b).symm.trans (BitVec.msb_eq_decide b)

/-- Class 1 is an analog request, whose byte is 128 plus the slot index (30_encoding.md R52, R55). -/
theorem toNat_of_decodeRequest_analog {b : Byte} {idx : Fin 128} (h : decodeRequest b = .analog idx) :
    b.toNat = 128 + idx.val := by
  have lt : b.toNat < 256 := b.isLt
  rw [decodeRequest, requestClass_eq] at h
  split at h
  case isTrue class1 =>
    cases h
    have high : 128 ≤ b.toNat := of_decide_eq_true class1
    rw [requestIdx_val]
    omega
  case isFalse => split at h <;> cases h

/-- Class 0 is a discrete request, whose low six bits are the group (30_encoding.md R53, R55). -/
theorem toNat_of_decodeRequest_discrete {b : Byte} {g : Fin 48} {sw : Bool} (h : decodeRequest b = .discrete g sw) :
    b.toNat < 128 ∧ b.toNat % 64 = g.val := by
  rw [decodeRequest, requestClass_eq] at h
  split at h
  case isTrue => cases h
  case isFalse class0 =>
    split at h
    case isTrue =>
      cases h
      have low : ¬ 128 ≤ b.toNat := fun high => class0 (decide_eq_true high)
      exact ⟨by omega, (requestGroupField_toNat b).symm⟩
    case isFalse => cases h

end Sys2Proof

namespace Sys2Proof.Machine

/-- A legal request is for a slot or for a group (30_encoding.md R57). -/
theorem decodeRequest_of_legal {b : Byte} (h : illegalRequest b = false) :
    (∃ idx, decodeRequest b = .analog idx) ∨ (∃ g sw, decodeRequest b = .discrete g sw) := by
  unfold illegalRequest at h
  cases hb : decodeRequest b with
  | analog idx => exact .inl ⟨idx, rfl⟩
  | discrete g sw => exact .inr ⟨g, sw, rfl⟩
  | invalid g sw => simp [hb] at h

theorem decodeRequest_of_illegal {b : Byte} (h : illegalRequest b = true) : ∃ g sw, decodeRequest b = .invalid g sw := by
  unfold illegalRequest at h
  cases hb : decodeRequest b with
  | analog idx => simp [hb] at h
  | discrete g sw => simp [hb] at h
  | invalid g sw => exact ⟨g, sw, rfl⟩

/-! ### The reply -/

theorem replyTo_of_analog {b : Byte} {idx : Fin 128} (h : decodeRequest b = .analog idx)
    (A : Vector Slot 128) (D : Vector Byte 48) : replyTo b A D = analogReply A[idx.val] := by
  simp [replyTo, poll, h]

theorem replyTo_of_discrete {b : Byte} {g : Fin 48} {sw : Bool} (h : decodeRequest b = .discrete g sw)
    (A : Vector Slot 128) (D : Vector Byte 48) : replyTo b A D = discreteReply D[g.val] := by
  simp [replyTo, poll, h]

theorem replyTo_of_invalid {b : Byte} {g : BitVec 6} {sw : Bool} (h : decodeRequest b = .invalid g sw)
    (A : Vector Slot 128) (D : Vector Byte 48) : replyTo b A D = [] := by
  simp [replyTo, poll, h]

/-- What a request whose channel is 0 is answered (10_state.md R23). -/
theorem replyTo_of_zero_channel {b : Byte} {s : State} (hb : illegalRequest b = false)
    (hA : ∀ i : Fin 128, b.toNat = 128 + i.val → readAnalog s i = 0#10)
    (hD : ∀ g : Fin 48, b.toNat < 128 → b.toNat % 64 = g.val → readGroup s g = 0#8) :
    replyTo b s.A s.D = if 128 ≤ b.toNat then [0xC0#8, 0x00#8] else [0xFF#8] := by
  rcases decodeRequest_of_legal hb with ⟨idx, h⟩ | ⟨g, sw, h⟩
  · have code := toNat_of_decodeRequest_analog h
    have zero : s.A[idx.val] = 0#10 := hA idx code
    rw [replyTo_of_analog h, zero, if_pos (by omega)]
    decide
  · obtain ⟨class0, field⟩ := toNat_of_decodeRequest_discrete h
    have zero : s.D[g.val] = 0#8 := hD g class0 field
    rw [replyTo_of_discrete h, zero, if_neg (by omega)]
    decide

/-! ### The operation of a request -/

/-- A legal request sends its reply, and shows a switcher bit: its own, or the one shown already for an analog
request (42_responder.md R112, R113; 50_interfaces.md R139). -/
theorem exec_legalRequest {b : Byte} (hb : illegalRequest b = false) (s : State) :
    ∃ sw, exec (decodeRequest b).toInstr s = admitted s (sendReply (showSwitch s sw) (replyTo b s.A s.D)) := by
  rcases decodeRequest_of_legal hb with ⟨idx, h⟩ | ⟨g, sw, h⟩
  · refine ⟨s.swObs, ?_⟩
    rw [h, replyTo_of_analog h]
    rfl
  · refine ⟨sw, ?_⟩
    rw [h, replyTo_of_discrete h]
    rfl

/-- An illegal request takes the wire fault (42_responder.md R114). -/
theorem exec_illegalRequest {b : Byte} (hb : illegalRequest b = true) (s : State) :
    exec (decodeRequest b).toInstr s = admitted s (raiseWireFault s .discreteGroupRange) := by
  obtain ⟨g, sw, h⟩ := decodeRequest_of_illegal hb
  rw [h]
  rfl

/-- THE CASES OF A REQUEST'S OPERATION, from its next state. -/
theorem exec_request_next_cases {b : Byte} {s t : State} (h : exec (decodeRequest b).toInstr s = .next t) :
    (illegalRequest b = true ∧ t = raiseWireFault s .discreteGroupRange) ∨
    (illegalRequest b = false ∧ ∃ sw, t = sendReply (showSwitch s sw) (replyTo b s.A s.D)) := by
  cases hb : illegalRequest b with
  | true =>
    rw [exec_illegalRequest hb] at h
    exact .inl ⟨rfl, (admitted_eq_next.mp h).2.symm⟩
  | false =>
    obtain ⟨sw, e⟩ := exec_legalRequest hb s
    rw [e] at h
    exact .inr ⟨rfl, sw, (admitted_eq_next.mp h).2.symm⟩

/-! ### The operation of a command, and the state it is run on -/

/-- The port's decoder answers port operations only (30_encoding.md R63). -/
theorem decodeCommand_side (w : Command) : (decodeCommand w).side = .port := by
  unfold decodeCommand
  split
  · rfl
  split
  · rfl
  split <;> rfl

/-- The state on which a side moves is the state itself, up to the schedule's counter. -/
theorem eq_withTurn_of_serialised {s s' : State} (h : s' = s ∨ s' = nextTurn s) : ∃ n, s' = { s with turn := n } := by
  rcases h with rfl | rfl
  · exact ⟨s'.turn, rfl⟩
  · exact ⟨s.turn + 1, rfl⟩

end Sys2Proof.Machine
end

section
/-! PROOFS. The invariant of the block (10_state.md R17, R19, R21; 60_exceptions.md R153): it holds at reset, and each
move and each operation keeps it. -/

namespace Sys2Proof.Machine

/-! ### The end of a reply -/

theorem replyInProgress_of_analog {b : Byte} {idx : Fin 128} (h : decodeRequest b = .analog idx) (unsent : List Byte) :
    ReplyInProgress b unsent ↔ ∃ v : Slot, unsent = analogReply v ∨ unsent = [(encodeAnalog v).2] ∨ unsent = [] := by
  rw [ReplyInProgress, h]

theorem replyInProgress_of_discrete {b : Byte} {g : Fin 48} {sw : Bool} (h : decodeRequest b = .discrete g sw)
    (unsent : List Byte) : ReplyInProgress b unsent ↔ ∃ raw : Byte, unsent = discreteReply raw ∨ unsent = [] := by
  rw [ReplyInProgress, h]

theorem replyInProgress_of_invalid {b : Byte} {g : BitVec 6} {sw : Bool} (h : decodeRequest b = .invalid g sw)
    (unsent : List Byte) : ReplyInProgress b unsent ↔ unsent = [] := by
  rw [ReplyInProgress, h]

/-- Handing over the first bytes of a reply's end leaves an end of that reply. -/
theorem ReplyInProgress.drop {b : Byte} {unsent : List Byte} (h : ReplyInProgress b unsent) (n : Nat) :
    ReplyInProgress b (unsent.drop n) := by
  cases hb : decodeRequest b with
  | analog idx =>
    rw [replyInProgress_of_analog hb] at h ⊢
    obtain ⟨v, rfl | rfl | rfl⟩ := h
    · match n with
      | 0 => exact ⟨v, .inl rfl⟩
      | 1 => exact ⟨v, .inr (.inl rfl)⟩
      | _ + 2 => exact ⟨v, .inr (.inr List.drop_nil)⟩
    · match n with
      | 0 => exact ⟨v, .inr (.inl rfl)⟩
      | _ + 1 => exact ⟨v, .inr (.inr List.drop_nil)⟩
    · exact ⟨v, .inr (.inr List.drop_nil)⟩
  | discrete g sw =>
    rw [replyInProgress_of_discrete hb] at h ⊢
    obtain ⟨raw, rfl | rfl⟩ := h
    · match n with
      | 0 => exact ⟨raw, .inl rfl⟩
      | _ + 1 => exact ⟨raw, .inr List.drop_nil⟩
    · exact ⟨raw, .inr List.drop_nil⟩
  | invalid g sw =>
    rw [replyInProgress_of_invalid hb] at h ⊢
    rw [h, List.drop_nil]

/-- With nothing unsent, the reply has not begun or is all handed over. -/
theorem replyInProgress_nil (b : Byte) : ReplyInProgress b [] := by
  cases hb : decodeRequest b with
  | analog idx => exact (replyInProgress_of_analog hb []).mpr ⟨0#10, .inr (.inr rfl)⟩
  | discrete g sw => exact (replyInProgress_of_discrete hb []).mpr ⟨0#8, .inr rfl⟩
  | invalid g sw => exact (replyInProgress_of_invalid hb []).mpr rfl

/-- The whole reply is an end of itself. -/
theorem replyInProgress_replyTo (b : Byte) (A : Vector Slot 128) (D : Vector Byte 48) :
    ReplyInProgress b (replyTo b A D) := by
  cases hb : decodeRequest b with
  | analog idx => exact (replyInProgress_of_analog hb _).mpr ⟨A[idx.val], .inl (replyTo_of_analog hb A D)⟩
  | discrete g sw => exact (replyInProgress_of_discrete hb _).mpr ⟨D[g.val], .inl (replyTo_of_discrete hb A D)⟩
  | invalid g sw => exact (replyInProgress_of_invalid hb _).mpr (replyTo_of_invalid hb A D)

/-! ### The invariant under each update -/

/-- The invariant speaks of five fields: whatever keeps them keeps it. -/
theorem State.Inv.of_same_transaction {s t : State} (h : s.Inv) (hphase : t.phase = s.phase) (hreq : t.req = s.req)
    (hunsent : t.unsent = s.unsent) (hfault : t.fault = s.fault) (hfcause : t.fcause = s.fcause) : t.Inv where
  waiting := by simpa only [hphase, hreq, hunsent] using h.waiting
  dispatching := by simpa only [hphase, hreq, hunsent] using h.dispatching
  faulted := by simpa only [hphase, hreq, hfault, hfcause] using h.faulted
  unfaulted := by simpa only [hfault, hfcause] using h.unfaulted

/-- A state in WaitByte with nothing held. -/
theorem State.Inv.of_waiting {s : State} (hphase : s.phase = .waitByte) (hreq : s.req = none) (hunsent : s.unsent = [])
    (hfault : s.fault = false) (hfcause : s.fcause = 0#2) : s.Inv where
  waiting _ := ⟨hreq, hunsent⟩
  dispatching h := by simp [hphase] at h
  faulted h := by simp [hfault] at h
  unfaulted _ := hfcause

/-- A state in Dispatch over a request whose reply is in progress. -/
theorem State.Inv.of_dispatching {s : State} {b : Byte} (hphase : s.phase = .dispatch) (hreq : s.req = some b)
    (hreply : ReplyInProgress b s.unsent) (hfault : s.fault = false) (hfcause : s.fcause = 0#2) : s.Inv where
  waiting h := by simp [hphase] at h
  dispatching _ := ⟨b, hreq, hreply⟩
  faulted h := by simp [hfault] at h
  unfaulted _ := hfcause

theorem resetEvent_inv (s : State) : (resetEvent s).Inv := .of_waiting rfl rfl rfl rfl rfl

theorem acceptByte_inv {s : State} (h : s.Inv) (hw : s.phase = .waitByte) (hf : s.fault = false) (b : Byte)
    (rest : List Byte) : (acceptByte s b rest).Inv := by
  obtain ⟨-, hunsent⟩ := h.waiting hw
  refine .of_dispatching (b := b) rfl rfl ?_ hf (h.unfaulted hf)
  rw [acceptByte_unsent, hunsent]
  exact replyInProgress_nil b

/-- Handing over, whatever the room: the transaction ends with its last byte or goes on with the end of its reply. -/
theorem handOver_inv {s : State} {b : Byte} (hreq : s.req = some b) (hreply : ReplyInProgress b s.unsent)
    (hf : s.fault = false) (hc : s.fcause = 0#2) : (handOver s).Inv := by
  by_cases done : (handOver s).unsent = []
  · obtain ⟨hphase, hnone⟩ := handOver_done done
    exact .of_waiting hphase hnone done hf hc
  · have more : (s.unsent.drop (taken s.txRoom s.unsent.length)).isEmpty = false :=
      List.isEmpty_eq_false_iff.mpr done
    exact .of_dispatching (by simp [more]) (by simp [more, hreq]) (hreply.drop _) hf hc

/-- A request that has run: its reply goes out from the start, or the wire fault stands over it. -/
theorem exec_request_inv {b : Byte} {s t : State} (h : s.Inv) (hf : s.fault = false)
    (hu : s.unsent = []) (hq : s.req = some b) (ht : exec (decodeRequest b).toInstr s = .next t) : t.Inv := by
  rcases exec_request_next_cases ht with ⟨illegal, rfl⟩ | ⟨-, sw, rfl⟩
  · exact {
      waiting := fun hw => by simp at hw
      dispatching := fun _ => ⟨b, hq, by rw [raiseWireFault_unsent, hu]; exact replyInProgress_nil b⟩
      faulted := fun _ => ⟨rfl, rfl, b, hq, illegal⟩
      unfaulted := fun unset => by simp at unset }
  · refine handOver_inv (b := b) hq ?_ hf (h.unfaulted hf)
    rw [showSwitch_unsent, hu, List.nil_append]
    exact replyInProgress_replyTo b s.A s.D

theorem takeCommand_inv {s : State} (h : s.Inv) (rest : List Command) : (takeCommand s rest).Inv :=
  h.of_same_transaction rfl rfl rfl rfl rfl

/-- A port operation leaves the transaction in progress alone (60_exceptions.md R159). -/
theorem exec_port_inv {i : Instr} {s t : State} (h : s.Inv) (hi : i.side = .port) (ht : exec i s = .next t) : t.Inv := by
  obtain ⟨-, A, D, r, rfl⟩ := exec_port_shape hi ht
  exact h.of_same_transaction rfl rfl rfl rfl rfl

/-- Settles O49, along the cases of a step: reset, waiting, a byte taken, a held request run, bytes handed over, a
command run. -/
theorem stepKeepsInvariant : Obligations.StepKeepsInvariant := by
  intro s t h ht
  rcases step_next_cases ht with ⟨-, rfl⟩ | ⟨-, hf, rfl | ⟨s', hs', move⟩⟩
  · exact resetEvent_inv s
  · exact h
  obtain ⟨n, rfl⟩ := eq_withTurn_of_serialised hs'
  have h' : State.Inv { s with turn := n } := h.of_same_transaction rfl rfl rfl rfl rfl
  rcases move with ⟨b, rest, hw, -, rfl⟩ | ⟨b, -, hu, hq, run⟩ | ⟨hd, -, -, rfl⟩ | ⟨w, rest, -, run⟩
  · exact acceptByte_inv h' hw hf b rest
  · exact exec_request_inv h' hf hu hq run
  · obtain ⟨b, hq, hreply⟩ := h'.dispatching hd
    exact handOver_inv hq hreply hf (h'.unfaulted hf)
  · exact exec_port_inv (takeCommand_inv h' rest) (decodeCommand_side w) run

/-- Settles O48: reset is a state in WaitByte with nothing held. -/
theorem invariantAtReset : Obligations.InvariantAtReset := State.Inv.of_waiting rfl rfl rfl rfl rfl

end Sys2Proof.Machine
end

section
/-! PROOFS. FAULT and FCAUSE (10_state.md R21): what sets them, and what clears them. -/

namespace Sys2Proof.Machine

/-- An operation of a request touches FAULT and FCAUSE only where the request is illegal. -/
theorem exec_request_fault {b : Byte} {s t : State} (hf : s.fault = false) (hd : s.phase = .dispatch)
    (h : exec (decodeRequest b).toInstr s = .next t) :
    (illegalRequest b = true ∧ t = { s with fault := true, fcause := 3#2 }) ∨
    (t.fault = false ∧ t.fcause = s.fcause) := by
  rcases exec_request_next_cases h with ⟨illegal, rfl⟩ | ⟨-, sw, rfl⟩
  · refine .inl ⟨illegal, ?_⟩
    rw [raiseWireFault, ← hd]
    rfl
  · exact .inr ⟨hf, rfl⟩

/-- A step other than reset runs a held illegal request, or leaves FAULT at 0 and FCAUSE as it was. -/
theorem step_fault_cases {s t : State} (h : step s = .next t) (hr : s.resetReq = false) :
    (∃ b n, s.req = some b ∧ illegalRequest b = true ∧ t = { s with fault := true, fcause := 3#2, turn := n }) ∨
    (t.fault = false ∧ t.fcause = s.fcause) := by
  rcases step_next_cases h with ⟨reset, -⟩ | ⟨-, hf, rfl | ⟨s', hs', move⟩⟩
  · simp [hr] at reset
  · exact .inr ⟨hf, rfl⟩
  obtain ⟨n, rfl⟩ := eq_withTurn_of_serialised hs'
  rcases move with ⟨b, rest, -, -, rfl⟩ | ⟨b, hd, -, hq, run⟩ | ⟨-, -, -, rfl⟩ | ⟨w, rest, -, run⟩
  · exact .inr ⟨hf, rfl⟩
  · rcases exec_request_fault (s := { s with turn := n }) hf hd run with ⟨illegal, e⟩ | same
    · exact .inl ⟨b, n, hq, illegal, e⟩
    · exact .inr same
  · exact .inr ⟨hf, rfl⟩
  · obtain ⟨-, A, D, r, rfl⟩ := exec_port_shape (decodeCommand_side w) run
    exact .inr ⟨hf, rfl⟩

/-- Settles O38: the two cases of `step_fault_cases` are told apart by FAULT after the step. -/
theorem onlyIllegalRequestSetsFault : Obligations.OnlyIllegalRequestSetsFault := by
  intro s t h _ hr
  rcases step_fault_cases h hr with ⟨b, n, hq, illegal, rfl⟩ | ⟨unset, same⟩
  · exact ⟨fun _ => ⟨b, hq, illegal, rfl⟩, fun unset => by simp at unset⟩
  · exact ⟨fun set => by simp [unset] at set, fun _ => same⟩

/-- Settles O39: of the cases of a step, only reset starts from FAULT = 1. -/
theorem onlyResetClearsFault : Obligations.OnlyResetClearsFault := by
  intro s t hf h
  rcases step_next_cases h with ⟨reset, rfl⟩ | ⟨-, unset, -⟩
  · exact ⟨reset, rfl, resetEvent_readAnalog s, resetEvent_readGroup s⟩
  · simp [hf] at unset

end Sys2Proof.Machine
end

section
/-! PROOFS. The two tables: zero after reset (10_state.md R23, R24), and written by `SETA` and `SETDB` only (R25). -/

namespace Sys2Proof.Machine

/-! ### After reset -/

theorem reset_readAnalog (i : Fin 128) : readAnalog State.reset i = 0#10 := by
  simp [readAnalog]

theorem reset_readGroup (g : Fin 48) : readGroup State.reset g = 0#8 := by
  simp [readGroup]

/-- Settles O42, field by field. -/
theorem resetStateValues : Obligations.ResetStateValues :=
  ⟨reset_readAnalog, reset_readGroup, State.reset_phase, State.reset_fault, State.reset_fcause, State.reset_tx,
    State.reset_req⟩

/-- Settles O43: a legal request's operation sends `replyTo`, which is fixed where the channel is 0. -/
theorem unwrittenChannelsAnswerZeroValue : Obligations.UnwrittenChannelsAnswerZeroValue := by
  refine ⟨reset_readAnalog, reset_readGroup, fun b s hb hA hD => ?_⟩
  have reply := replyTo_of_zero_channel hb hA hD
  refine ⟨reply, fun hf hu hroom => ?_⟩
  obtain ⟨sw, run⟩ := exec_legalRequest hb s
  refine ⟨_, run.trans (admitted_of_unfaulted hf _), ?_⟩
  rw [sendReply_of_room (s := showSwitch s sw) hu hroom, reply, showSwitch_tx]

/-! ### The writers -/

/-- The operation of a request reads the tables and writes neither. -/
theorem exec_request_tables {b : Byte} {s t : State} (h : exec (decodeRequest b).toInstr s = .next t) :
    t.A = s.A ∧ t.D = s.D := by
  rcases exec_request_next_cases h with ⟨-, rfl⟩ | ⟨-, sw, rfl⟩ <;> exact ⟨rfl, rfl⟩

/-- A port operation writes neither table, or is `SETA` and keeps `D`, or is `SETDB` and keeps `A`. -/
theorem exec_port_tables {i : Instr} {s t : State} (hi : i.side = .port) (h : exec i s = .next t) :
    (t.A = s.A ∧ t.D = s.D) ∨ ((∃ a v, i = .seta a v) ∧ t.D = s.D) ∨ ((∃ b on, i = .setdb b on) ∧ t.A = s.A) := by
  cases i with
  | rda | rddInvalid | rdd => simp [Instr.side] at hi
  | seta a v =>
    obtain ⟨-, rfl⟩ := admitted_eq_next.mp h
    refine .inr (.inl ⟨⟨a, v, rfl⟩, ?_⟩)
    split <;> rfl
  | geta a =>
    obtain ⟨-, rfl⟩ := admitted_eq_next.mp h
    left
    split <;> exact ⟨rfl, rfl⟩
  | setdb b on =>
    obtain ⟨-, rfl⟩ := admitted_eq_next.mp h
    refine .inr (.inr ⟨⟨b, on, rfl⟩, ?_⟩)
    split <;> rfl
  | getdg g =>
    obtain ⟨-, rfl⟩ := admitted_eq_next.mp h
    left
    split <;> exact ⟨rfl, rfl⟩

/-- A step other than reset writes neither table, or runs the oldest command, as `exec_port_tables` has it. -/
theorem step_tables {s t : State} (h : step s = .next t) (hr : s.resetReq = false) :
    (t.A = s.A ∧ t.D = s.D) ∨
    ∃ w rest, s.port = w :: rest ∧ t.port = rest ∧
      (((∃ a v, decodeCommand w = .seta a v) ∧ t.D = s.D) ∨ ((∃ b on, decodeCommand w = .setdb b on) ∧ t.A = s.A)) := by
  rcases step_next_cases h with ⟨reset, -⟩ | ⟨-, -, rfl | ⟨s', hs', move⟩⟩
  · simp [hr] at reset
  · exact .inl ⟨rfl, rfl⟩
  obtain ⟨n, rfl⟩ := eq_withTurn_of_serialised hs'
  rcases move with ⟨b, rest, -, -, rfl⟩ | ⟨b, -, -, -, run⟩ | ⟨-, -, -, rfl⟩ | ⟨w, rest, hp, run⟩
  · exact .inl ⟨rfl, rfl⟩
  · exact .inl (exec_request_tables (s := { s with turn := n }) run)
  · exact .inl ⟨rfl, rfl⟩
  · have taken : t.port = rest := by
      obtain ⟨-, A, D, r, rfl⟩ := exec_port_shape (decodeCommand_side w) run
      rfl
    rcases exec_port_tables (decodeCommand_side w) run with same | writer
    · exact .inl same
    · exact .inr ⟨w, rest, hp, taken, writer⟩

/-- Settles O44: a table that changes excludes the cases of `step_tables` that keep it. -/
theorem tablesChangeOnlyThroughAccessors : Obligations.TablesChangeOnlyThroughAccessors := by
  intro s t h hr
  rcases step_tables h hr with ⟨sameA, sameD⟩ | ⟨w, rest, hp, taken, ⟨⟨a, v, hw⟩, sameD⟩ | ⟨⟨b, on, hw⟩, sameA⟩⟩
  · exact ⟨fun change => absurd sameA change, fun change => absurd sameD change⟩
  · exact ⟨fun _ => ⟨sameD, w, rest, a, v, hp, taken, hw⟩, fun change => absurd sameD change⟩
  · exact ⟨fun change => absurd sameA change, fun _ => ⟨sameA, w, rest, b, on, hp, taken, hw⟩⟩

end Sys2Proof.Machine
end

section
/-! PROOFS. The bit addresses 1..384 as signals (20_memory.md R34), and `SETDB` as the write of one signal (R43). -/

namespace Sys2Proof.Machine

/-! ### Addresses and pairs -/

theorem slotToAddress_addressToSlot (b : Int) (h : 1 ≤ b ∧ b ≤ 384) :
    slotToAddress (addressToSlot b h).1 (addressToSlot b h).2 = b := by
  have group := addressToSlot_group b h
  have position := addressToSlot_position b h
  unfold slotToAddress
  omega

/-- An address is recovered from its pair, so no two share one. -/
theorem addressToSlot_injective {b b' : Int} (h : 1 ≤ b ∧ b ≤ 384) (h' : 1 ≤ b' ∧ b' ≤ 384)
    (e : addressToSlot b h = addressToSlot b' h') : b = b' := by
  rw [← slotToAddress_addressToSlot b h, e, slotToAddress_addressToSlot b' h']

theorem slotToAddress_mem (g : Fin 48) (pos : Fin 8) : 1 ≤ slotToAddress g pos ∧ slotToAddress g pos ≤ 384 := by
  have hg := g.isLt
  have hpos := pos.isLt
  unfold slotToAddress
  omega

theorem addressToSlot_slotToAddress (g : Fin 48) (pos : Fin 8) :
    addressToSlot (slotToAddress g pos) (slotToAddress_mem g pos) = (g, pos) := by
  have hg := g.isLt
  have group := addressToSlot_group _ (slotToAddress_mem g pos)
  have position := addressToSlot_position _ (slotToAddress_mem g pos)
  have address : slotToAddress g pos = pos.val * 48 + g.val + 1 := rfl
  refine Prod.ext (Fin.ext ?_) (Fin.ext ?_)
  · change _ = g.val
    omega
  · change _ = pos.val
    omega

/-- Settles O10: `slotToAddress` is a left and a right inverse. -/
theorem bitAddressMappingIsBijection : Obligations.BitAddressMappingIsBijection :=
  ⟨slotToAddress_addressToSlot, fun _ _ => addressToSlot_injective, fun g pos =>
    bitSlot_eq_some.mpr ⟨slotToAddress_mem g pos, addressToSlot_slotToAddress g pos⟩⟩

/-- Two addresses of one signal are one address. -/
theorem bitSlot_injective {b b' : Int} {p : Fin 48 × Fin 8} (hb : bitSlot b = some p) (hb' : bitSlot b' = some p) :
    b = b' := by
  obtain ⟨h, e⟩ := bitSlot_eq_some.mp hb
  obtain ⟨h', e'⟩ := bitSlot_eq_some.mp hb'
  exact addressToSlot_injective h h' (e.trans e'.symm)

/-! ### `SETDB`, bit by bit -/

/-- The discrete table is its 384 bits. -/
theorem discreteTable_ext {s t : State}
    (h : ∀ (g : Fin 48) (q : Fin 8), (readGroup s g).getLsbD q.val = (readGroup t g).getLsbD q.val) : s.D = t.D :=
  Vector.ext fun g hg => BitVec.eq_of_getLsbD_eq fun q hq => h ⟨g, hg⟩ ⟨q, hq⟩

/-- `SETDB` gives `on` to the signal its address names, if any, and keeps every other (40_store_ops.md R73). -/
theorem exec_setdb_getLsbD {b : Int} {on : Bool} {s t : State} (h : exec (.setdb b on) s = .next t)
    (g : Fin 48) (q : Fin 8) :
    (readGroup t g).getLsbD q.val = if bitSlot b = some (g, q) then on else (readGroup s g).getLsbD q.val := by
  obtain ⟨-, rfl⟩ := admitted_eq_next.mp h
  cases e : bitSlot b with
  | none => simp [readGroup]
  | some p =>
    have write := readGroup_writeGroupBit_getLsbD s p.1 g p.2 q on
    simpa [readGroup, Prod.ext_iff, eq_comm (a := q)] using write

/-- `SETDB` leaves the analog table as it is. -/
theorem exec_setdb_A {b : Int} {on : Bool} {s t : State} (h : exec (.setdb b on) s = .next t) : t.A = s.A := by
  rcases exec_port_tables (i := .setdb b on) rfl h with ⟨sameA, -⟩ | ⟨⟨a, v, other⟩, -⟩ | ⟨-, sameA⟩
  · exact sameA
  · cases other
  · exact sameA

/-- Settles O17: each bit is written by at most one of the two, since different addresses name different signals. -/
theorem setdbOfDifferentSignalsCommute : Obligations.SetdbOfDifferentSignalsCommute := by
  intro b b' on on' s t u t' u' different ht hu ht' hu'
  refine ⟨discreteTable_ext fun g q => ?_, (exec_setdb_A hu).trans (exec_setdb_A ht),
    (exec_setdb_A hu').trans (exec_setdb_A ht')⟩
  rw [exec_setdb_getLsbD hu, exec_setdb_getLsbD ht, exec_setdb_getLsbD hu', exec_setdb_getLsbD ht']
  by_cases hb : bitSlot b = some (g, q)
  · have hb' : bitSlot b' ≠ some (g, q) := fun hb' => different (bitSlot_injective hb hb')
    rw [if_neg hb', if_pos hb, if_pos hb]
  · rw [if_neg hb, if_neg hb]

end Sys2Proof.Machine
end

section
/-! PROOFS. The four reading operations, as functions of the tables (20_memory.md R40), and what `RDA` reads after
`SETA` (R32). -/

namespace Sys2Proof.Machine

/-! ### What a read answers -/

/-- The result of a port read is fixed by the tables, and delivering it is all the read does (40_store_ops.md R71,
R74). -/
theorem exec_port_read {i : Instr} (hi : (∃ a, i = .geta a) ∨ (∃ g, i = .getdg g)) (s : State) :
    ∃ r, ∀ t : State, t.A = s.A → t.D = s.D → exec i t = admitted t (deliverResult t r) := by
  rcases hi with ⟨a, rfl⟩ | ⟨g, rfl⟩
  · cases e : externalSlot a with
    | none => exact ⟨.err .analogAddressRange, fun t _ _ => by simp [exec, execGeta, e, raisePortError]⟩
    | some i => exact ⟨.data (readAnalog s i), fun t hA _ => by simp [exec, execGeta, e, readAnalog, hA]⟩
  · cases e : groupIndex g with
    | none => exact ⟨.err .discreteGroupRange, fun t _ _ => by simp [exec, execGetdg, e, raisePortError]⟩
    | some i =>
      exact ⟨.data ((readGroup s i).setWidth 10), fun t _ hD => by simp [exec, execGetdg, e, readGroup, hD]⟩

theorem showSwitch_of_shown {s : State} {sw : Bool} (h : s.swObs = sw) : showSwitch s sw = s := by
  subst h; rfl

/-- After a whole reply another one only adds its bytes: the transaction is over already. -/
theorem sendReply_sendReply_of_room {s : State} (hu : s.unsent = []) (hroom : s.txRoom = none)
    (bytes bytes' : List Byte) :
    sendReply (sendReply s bytes) bytes' = { sendReply s bytes with tx := (sendReply s bytes).tx ++ bytes' } := by
  rw [sendReply_of_room hu hroom bytes, sendReply_of_room]
  · exact hu
  · exact hroom

/-- A wire read sends a reply fixed by the tables and shows a switcher bit, which for `RDA` is the one shown already;
over the same tables, with that bit shown, sending the reply is all it does (42_responder.md R112, R113). -/
theorem exec_wire_read {i : Instr} (hi : (∃ x, i = .rda x) ∨ (∃ g sw, i = .rdd g sw)) (s : State) :
    ∃ bytes sw, bytes ≠ [] ∧ exec i s = admitted s (sendReply (showSwitch s sw) bytes) ∧
      ∀ t : State, t.A = s.A → t.D = s.D → t.swObs = sw → exec i t = admitted t (sendReply t bytes) := by
  rcases hi with ⟨x, rfl⟩ | ⟨g, sw, rfl⟩
  · refine ⟨analogReply (readAnalog s x), s.swObs, List.cons_ne_nil _ _, rfl, fun t hA _ _ => ?_⟩
    simp [exec, execRda, readAnalog, hA]
  · refine ⟨discreteReply (readGroup s g), sw, List.cons_ne_nil _ _, rfl, fun t _ hD hsw => ?_⟩
    simp [exec, execRdd, showSwitch_of_shown hsw, readGroup, hD]

/-- Settles O18: the state after a read has the tables of the state before it, and they fix the answer. -/
theorem readsHaveNoSideEffects : Obligations.ReadsHaveNoSideEffects := by
  intro i s t hread h
  rcases or_assoc.mpr hread with port | wire
  · obtain ⟨r, run⟩ := exec_port_read port s
    rw [run s rfl rfl] at h
    obtain ⟨hf, rfl⟩ := admitted_eq_next.mp h
    refine ⟨rfl, rfl, fun _ => ⟨r, rfl, ?_⟩, fun side => ?_⟩
    · exact (run (deliverResult s r) rfl rfl).trans (admitted_of_unfaulted hf _)
    · rcases port with ⟨a, rfl⟩ | ⟨g, rfl⟩ <;> cases side
  · obtain ⟨bytes, sw, nonempty, run, again⟩ := exec_wire_read wire s
    rw [run] at h
    obtain ⟨hf, rfl⟩ := admitted_eq_next.mp h
    refine ⟨rfl, rfl, fun side => ?_, fun _ hu hroom => ⟨bytes, nonempty, ?_, ?_⟩⟩
    · rcases wire with ⟨x, rfl⟩ | ⟨g, sw, rfl⟩ <;> cases side
    · rw [sendReply_of_room (s := showSwitch s sw) hu hroom, showSwitch_tx]
    · calc exec i (sendReply (showSwitch s sw) bytes)
        _ = .next (sendReply (sendReply (showSwitch s sw) bytes) bytes) :=
          (again (sendReply (showSwitch s sw) bytes) rfl rfl rfl).trans (admitted_of_unfaulted hf _)
        _ = _ := congrArg _ (sendReply_sendReply_of_room (s := showSwitch s sw) hu hroom bytes bytes)

/-! ### `SETA`, then `RDA` -/

theorem maskAnalog_eq (v : Nat) : maskAnalog v = BitVec.ofNat 10 (v % 1024) := by
  apply BitVec.eq_of_toNat_eq
  rw [maskAnalog_toNat, BitVec.toNat_ofNat, Nat.mod_mod]

/-- External address `k + 1` is slot `k` (20_memory.md R31). -/
theorem exec_seta_succ {k : Fin 128} {v : Nat} {s t : State} (h : exec (.seta (k.val + 1) v) s = .next t) :
    t = deliverResult (writeAnalog s k (maskAnalog v)) .ok := by
  have slot : externalSlot (k.val + 1) = some k := externalSlot_eq_some.mpr (by omega)
  obtain ⟨-, rfl⟩ := admitted_eq_next.mp h
  rw [slot]

/-- Settles O26: `SETA` writes slot `k`, and `RDA` reads slot `idx` with no shift. -/
theorem setaIsPolledAtIndexOneBelow : Obligations.SetaIsPolledAtIndexOneBelow := by
  intro k idx v s t u _ hu hroom ht hpoll
  obtain rfl := exec_seta_succ ht
  obtain ⟨-, rfl⟩ := admitted_eq_next.mp hpoll
  have read : readAnalog (deliverResult (writeAnalog s k (maskAnalog v)) .ok) idx =
      if idx = k then BitVec.ofNat 10 (v % 1024) else readAnalog s idx :=
    (readAnalog_writeAnalog s k idx (maskAnalog v)).trans (if_congr eq_comm (maskAnalog_eq v) rfl)
  rw [read, sendReply_of_room (s := deliverResult (writeAnalog s k (maskAnalog v)) .ok) hu hroom]
  rfl

end Sys2Proof.Machine
end

section
/-! PROOFS. The step by the moves the two sides have (20_memory.md R41, R42): the port's alone, the wire's alone, and
both; and a reply handed over in parts (R46). -/

namespace Sys2Proof.Machine

/-! ### The wire side's move -/

theorem wireAction_of_byte {s : State} {b : Byte} {rest : List Byte} (hw : s.phase = .waitByte)
    (hx : s.rx = b :: rest) : wireAction s = some (.move (acceptByte s b rest)) := by
  simp [wireAction, hw, hx]

/-- With a reply begun, the wire side hands over bytes where there is room for any, and has no move where there is
none (42_responder.md R120). -/
theorem wireAction_of_unsent {s : State} (hd : s.phase = .dispatch) (hu : s.unsent ≠ []) :
    wireAction s = if s.txRoom = some 0 then none else some (.move (handOver s)) := by
  obtain ⟨x, xs, e⟩ := List.exists_cons_of_ne_nil hu
  by_cases full : s.txRoom = some 0 <;> simp [wireAction, hd, e, txReady, full]

/-- Whether the wire side has a move does not depend on the schedule's counter. -/
theorem wireAction_nextTurn_isSome (s : State) : (wireAction (nextTurn s)).isSome = (wireAction s).isSome := by
  cases hp : s.phase with
  | waitByte => cases hx : s.rx <;> simp [wireAction, hp, hx]
  | dispatch =>
    by_cases hu : s.unsent = []
    · simp [wireAction, hp, hu]
    · rw [wireAction_of_unsent hp hu, wireAction_of_unsent (s := nextTurn s) hp hu, nextTurn_txRoom]
      split <;> rfl

/-! ### The step where one side has a move -/

theorem step_of_only_port {s : State} {w : Command} {rest : List Command} (hr : s.resetReq = false)
    (hf : s.fault = false) (hw : wireAction s = none) (hp : s.port = w :: rest) :
    step s = exec (decode (.command w)) (takeCommand s rest) := by
  apply step_of_run
  rw [nextAction_eq_serialise hr hf, serialise_of_only_port hw (portAction_of_command hp)]

/-- Settles O30: in neither of the two states has the wire side a move. -/
theorem stepRunsOldestCommand : Obligations.StepRunsOldestCommand := by
  intro s w rest hr hf hp idle
  have hw : wireAction s = none := by
    rcases idle with ⟨hphase, hx⟩ | ⟨hphase, hu, full⟩
    · exact wireAction_of_no_byte hphase hx
    · rw [wireAction_of_unsent hphase hu, if_pos full]
  exact step_of_only_port hr hf hw hp

/-- With no command waiting, a reply begun goes on as soon as there is room (42_responder.md R120). -/
theorem step_of_unsent {s : State} (hr : s.resetReq = false) (hf : s.fault = false) (hd : s.phase = .dispatch)
    (hu : s.unsent ≠ []) (hroom : s.txRoom ≠ some 0) (hp : s.port = []) : step s = .next (handOver s) := by
  have hw := (wireAction_of_unsent hd hu).trans (if_neg hroom)
  apply step_of_move
  rw [nextAction_eq_serialise hr hf, serialise_of_only_wire hw (portAction_of_no_command hp)]

/-! ### The step where both sides have a move -/

/-- The free value decides: the wire side's move `a`, whose step is `o`, or the oldest command, each on the state with
the counter advanced. -/
theorem step_of_contended {s : State} {w : Command} {rest : List Command} {a : Action}
    {o : Host.Outcome State Fault Refusal} (hr : s.resetReq = false) (hf : s.fault = false) (hp : s.port = w :: rest)
    (hw : wireAction (nextTurn s) = some a) (ho : nextAction s = a → step s = o) :
    step s = if Config.wireFirst s.turn then o
      else exec (decode (.command w)) (takeCommand (nextTurn s) rest) := by
  have pending : ∃ x, wireAction s = some x := by
    rw [← Option.isSome_iff_exists, ← wireAction_nextTurn_isSome, hw]
    rfl
  obtain ⟨x, hx⟩ := pending
  have choice : nextAction s = if Config.wireFirst s.turn then a
      else .run (decode (.command w)) (takeCommand (nextTurn s) rest) := by
    have hp' := portAction_of_command (s := nextTurn s) hp
    rw [nextAction_eq_serialise hr hf, serialise, hx, portAction_of_command hp, hw, hp']
    rfl
  cases first : Config.wireFirst s.turn with
  | true => exact ho (by rw [choice, first]; rfl)
  | false => exact step_of_run (by rw [choice, first]; rfl)

theorem handOver_of_room {s : State} (hroom : s.txRoom = none) :
    handOver s = { s with tx := s.tx ++ s.unsent, unsent := [], phase := .waitByte, req := none } := by
  simp [handOver, hroom]

theorem handOver_of_limited_room {s : State} {k : Nat} (hroom : s.txRoom = some k) :
    handOver s = { s with
      tx := s.tx ++ s.unsent.take k
      unsent := s.unsent.drop k
      txRoom := some (k - s.unsent.length)
      phase := if s.unsent.length ≤ k then .waitByte else .dispatch
      req := if s.unsent.length ≤ k then none else s.req } := by
  rcases Nat.le_total s.unsent.length k with all | part
  · simp [handOver, hroom, all]
  · simp [handOver, hroom, part]

/-- Settles O33: in each of the four states the wire side has the move named. -/
theorem eitherSideMayGoFirst : Obligations.EitherSideMayGoFirst := by
  intro s w rest b hr hf hp
  refine ⟨fun bs hphase hx => ?_, fun hphase hq hu => ?_, fun hphase hu hroom => ?_, fun k hphase hu hroom hk => ?_⟩
  · exact step_of_contended hr hf hp (wireAction_of_byte (s := nextTurn s) hphase hx) step_of_move
  · exact step_of_contended hr hf hp (wireAction_of_held (s := nextTurn s) hphase hu hq) step_of_run
  · have hw : wireAction (nextTurn s) = some (.move (handOver (nextTurn s))) := by
      rw [wireAction_of_unsent (s := nextTurn s) hphase hu, nextTurn_txRoom, hroom, if_neg (by simp)]
    rw [handOver_of_room (s := nextTurn s) hroom] at hw
    exact step_of_contended hr hf hp hw step_of_move
  · have hw : wireAction (nextTurn s) = some (.move (handOver (nextTurn s))) := by
      rw [wireAction_of_unsent (s := nextTurn s) hphase hu, nextTurn_txRoom, hroom, if_neg (by simpa using hk.ne')]
    rw [handOver_of_limited_room (s := nextTurn s) hroom] at hw
    exact step_of_contended hr hf hp hw step_of_move

/-! ### A reply handed over in two parts -/

/-- With room for one byte, an analog reply is begun: its first byte goes out and its second stays unsent. -/
theorem sendReply_analog_of_room_one {s : State} (hu : s.unsent = []) (hroom : s.txRoom = some 1) (v : Slot) :
    (sendReply s (analogReply v)).tx = s.tx ++ (analogReply v).take 1 ∧
      (sendReply s (analogReply v)).unsent = (analogReply v).drop 1 ∧
      (sendReply s (analogReply v)).phase = .dispatch := by
  simp [hu, hroom, analogReply]

/-- Settles O28: a port operation leaves the unsent byte as it is (`exec_port_shape`), the step hands that over, and
no byte of the reply is lost between the two (`sendReply_stream`). -/
theorem analogReplyIsNotTorn : Obligations.AnalogReplyIsNotTorn := by
  intro idx i s hf hu hroom hr hp hi
  obtain ⟨first, second, dispatch⟩ := sendReply_analog_of_room_one hu hroom (readAnalog s idx)
  have stream := sendReply_stream s (analogReply (readAnalog s idx))
  rw [hu, List.append_nil] at stream
  have rda : exec (.rda idx) s = .next (sendReply s (analogReply (readAnalog s idx))) := admitted_of_unfaulted hf _
  obtain ⟨u, hport⟩ := exec_next_of_unfaulted i (s := sendReply s (analogReply (readAnalog s idx))) hf
  obtain ⟨-, A, D, r, rfl⟩ := exec_port_shape hi hport
  have pending : (sendReply s (analogReply (readAnalog s idx))).unsent ≠ [] := by
    rw [second]
    exact List.cons_ne_nil _ _
  refine ⟨_, _, _, rda, hport, step_of_unsent hr hf dispatch pending nofun hp, first, rfl, ?_, ?_, rfl⟩
  · rw [handOver_of_room (State.setTxRoom_txRoom _ _)]
    exact stream
  · rw [handOver_of_room (State.setTxRoom_txRoom _ _)]

end Sys2Proof.Machine
end

section
/-! PROOFS. Request bytes: the fields of an encoded byte, and every byte as the encoding of its fields (30_encoding.md
R51 to R55). -/

namespace Sys2Proof

/-! ### The fields of an encoded request byte -/

theorem requestGroupField_eq_setWidth (b : Byte) : requestGroupField b = b.setWidth 6 :=
  BitVec.eq_of_toNat_eq (by rw [requestGroupField_toNat, BitVec.toNat_setWidth])

theorem ofNat_requestIdx (b : Byte) : BitVec.ofNat 7 (requestIdx b).val = b.setWidth 7 :=
  BitVec.eq_of_toNat_eq (by rw [requestIdx_val, BitVec.toNat_ofNat, BitVec.toNat_setWidth, Nat.mod_mod])

theorem discreteRequest_getLsbD (g : BitVec 6) (sw : Bool) (i : Nat) :
    (discreteRequest g sw).getLsbD i = if i < 6 then g.getLsbD i else decide (i = 6) && sw := by
  rw [discreteRequest, BitVec.getLsbD_append, BitVec.getLsbD_append]
  rcases Nat.lt_trichotomy i 6 with low | rfl | high
  · simp [low]
  · simp
  · simp [high.not_gt, high.ne', Nat.sub_ne_zero_of_lt high]

theorem analogRequest_getLsbD (idx : Fin 128) (i : Nat) :
    (analogRequest idx).getLsbD i = if i < 7 then (BitVec.ofNat 7 idx.val).getLsbD i else decide (i = 7) := by
  rw [analogRequest, BitVec.getLsbD_append, BitVec.getLsbD_one]
  split
  · rfl
  · have atClass : i - 7 = 0 ↔ i = 7 := by omega
    simp [atClass]

theorem requestGroupField_discreteRequest (g : BitVec 6) (sw : Bool) :
    requestGroupField (discreteRequest g sw) = g :=
  (requestGroupField_eq_setWidth _).trans BitVec.setWidth_append_eq_right

theorem requestSw_discreteRequest (g : BitVec 6) (sw : Bool) : requestSw (discreteRequest g sw) = sw :=
  discreteRequest_getLsbD g sw 6

theorem requestIdx_analogRequest (idx : Fin 128) : requestIdx (analogRequest idx) = idx := by
  have field : BitVec.ofNat 7 (requestIdx (analogRequest idx)).val = BitVec.ofNat 7 idx.val :=
    (ofNat_requestIdx _).trans BitVec.setWidth_append_eq_right
  have same := congrArg BitVec.toNat field
  rwa [BitVec.toNat_ofNat, BitVec.toNat_ofNat, Nat.mod_eq_of_lt (Fin.isLt _), Nat.mod_eq_of_lt idx.isLt,
    ← Fin.ext_iff] at same

/-! ### Every byte is an encoded request -/

/-- A byte of class 1 is the analog request for its index (30_encoding.md R52). -/
theorem analogRequest_requestIdx {b : Byte} (class1 : b.getLsbD 7 = true) : analogRequest (requestIdx b) = b := by
  refine BitVec.eq_of_getLsbD_eq fun i hi => ?_
  rw [analogRequest_getLsbD, ofNat_requestIdx, BitVec.getLsbD_setWidth]
  split
  case isTrue low => simp [low]
  case isFalse high =>
    obtain rfl : i = 7 := by omega
    exact class1.symm

/-- A byte of class 0 is the discrete request for its field and its switcher bit (30_encoding.md R53). -/
theorem discreteRequest_fields {b : Byte} (class0 : b.getLsbD 7 = false) :
    discreteRequest (requestGroupField b) (requestSw b) = b := by
  refine BitVec.eq_of_getLsbD_eq fun i hi => ?_
  rw [discreteRequest_getLsbD, requestGroupField_eq_setWidth, BitVec.getLsbD_setWidth]
  split
  case isTrue low => simp [low]
  case isFalse high =>
    obtain rfl | rfl : i = 6 ∨ i = 7 := by omega
    · rfl
    · exact class0.symm

/-- The two request classes (30_encoding.md R51) cover all 256 bytes. -/
theorem request_cases (b : Byte) : (∃ idx, b = analogRequest idx) ∨ ∃ g sw, b = discreteRequest g sw := by
  cases h : b.getLsbD 7 with
  | true => exact .inl ⟨_, (analogRequest_requestIdx h).symm⟩
  | false => exact .inr ⟨_, _, (discreteRequest_fields h).symm⟩

/-! ### The operation of an encoded request byte -/

theorem decode_analogRequest (idx : Fin 128) : decode (.request (analogRequest idx)) = .rda idx := by
  have class1 : (analogRequest idx).getLsbD 7 = true := analogRequest_getLsbD idx 7
  rw [decode, decodeRequest, if_pos class1, requestIdx_analogRequest, Target.toInstr]

/-- The group field decides what a discrete request asks for (30_encoding.md R53, 41_codec.md R90). -/
theorem decode_discreteRequest (g : BitVec 6) (sw : Bool) :
    decode (.request (discreteRequest g sw)) =
      if h : g.toNat < 48 then .rdd ⟨g.toNat, h⟩ sw else .rddInvalid g sw := by
  have class0 : (discreteRequest g sw).getLsbD 7 = false := discreteRequest_getLsbD g sw 7
  simp only [decode, decodeRequest, class0, Bool.false_eq_true, if_false, requestGroupField_discreteRequest,
    requestSw_discreteRequest]
  split <;> rfl

theorem decode_discreteRequest_of_lt {g : BitVec 6} (h : g.toNat < 48) (sw : Bool) :
    decode (.request (discreteRequest g sw)) = .rdd ⟨g.toNat, h⟩ sw := by
  rw [decode_discreteRequest, dif_pos h]

theorem decode_discreteRequest_of_not_lt {g : BitVec 6} (h : ¬ g.toNat < 48) (sw : Bool) :
    decode (.request (discreteRequest g sw)) = .rddInvalid g sw := by
  rw [decode_discreteRequest, dif_neg h]

/-- Settles O2: an encoded byte of either class decodes to the operation it was encoded from. -/
theorem encodeOfDecodedRequestIsTheByte : Obligations.EncodeOfDecodedRequestIsTheByte := by
  intro b
  rcases request_cases b with ⟨idx, rfl⟩ | ⟨g, sw, rfl⟩
  · rw [decode_analogRequest, encode]
  · by_cases h : g.toNat < 48
    · rw [decode_discreteRequest_of_lt h, encode, BitVec.ofNat_toNat, BitVec.setWidth_eq]
    · rw [decode_discreteRequest_of_not_lt h, encode]

end Sys2Proof
end

section
/-! PROOFS. Port command words: the three fields of an assembled word, every word as the assembly of its fields, and
the operation of each value of `op` (30_encoding.md R63). -/

namespace Sys2Proof

/-! ### Fields and words -/

theorem commandOp_commandWord (op : BitVec 2) (addr : Int) (data : BitVec 16) :
    commandOp (commandWord op addr data) = op := by
  rw [commandOp, commandWord, BitVec.extractLsb'_append_eq_of_le (by decide)]
  exact BitVec.extractLsb'_append_eq_left

/-- The address field carries every integer that fits it (50_interfaces.md R135). -/
theorem commandAddr_commandWord {addr : Int} (fits : fitsPortAddr addr = true) (op : BitVec 2) (data : BitVec 16) :
    commandAddr (commandWord op addr data) = addr := by
  rw [fitsPortAddr, Bool.and_eq_true, decide_eq_true_eq, decide_eq_true_eq] at fits
  obtain ⟨lower, upper⟩ := fits
  rw [commandAddr, commandWord, BitVec.extractLsb'_append_eq_of_le (by decide), BitVec.extractLsb'_append_eq_right]
  exact BitVec.toInt_ofInt_eq_self (by decide) lower upper

theorem commandData_commandWord (op : BitVec 2) (addr : Int) (data : BitVec 16) :
    commandData (commandWord op addr data) = data :=
  BitVec.extractLsb'_append_eq_right

/-- Every value of the address field fits the port. -/
theorem fitsPortAddr_commandAddr (w : Command) : fitsPortAddr (commandAddr w) = true := by
  rw [fitsPortAddr, Bool.and_eq_true, decide_eq_true_eq, decide_eq_true_eq]
  exact ⟨BitVec.le_toInt _, BitVec.toInt_lt⟩

theorem fitsPortData_commandData (w : Command) : fitsPortData (commandData w).toNat = true :=
  decide_eq_true (commandData w).isLt

/-- A command word is its three fields, so masking the data field masks the word. -/
theorem commandWord_fields_and (w : Command) (mask : BitVec 16) :
    commandWord (commandOp w) (commandAddr w) (commandData w &&& mask) = w &&& (BitVec.allOnes 18 ++ mask) := by
  have fields : w.extractLsb' 16 18 ++ commandData w = w := BitVec.extractLsb'_append_extractLsb'
  have high : commandOp w ++ BitVec.ofInt 16 (commandAddr w) = w.extractLsb' 16 18 := by
    rw [commandAddr, BitVec.ofInt_toInt]
    exact BitVec.extractLsb'_append_extractLsb'_eq_extractLsb' rfl
  calc commandWord (commandOp w) (commandAddr w) (commandData w &&& mask)
      _ = w.extractLsb' 16 18 ++ (commandData w &&& mask) := by rw [commandWord, high]
      _ = (w.extractLsb' 16 18 ++ commandData w) &&& (BitVec.allOnes 18 ++ mask) := by
        rw [BitVec.and_append, BitVec.and_allOnes]
      _ = w &&& (BitVec.allOnes 18 ++ mask) := by rw [fields]

/-! ### The operation of a command word -/

theorem decode_command_of_op_zero {w : Command} (op : commandOp w = 0#2) :
    decode (.command w) = .seta (commandAddr w) (commandData w).toNat := by
  rw [decode, decodeCommand, if_pos op]

theorem decode_command_of_op_one {w : Command} (op : commandOp w = 1#2) :
    decode (.command w) = .geta (commandAddr w) := by
  simp [decode, decodeCommand, op]

theorem decode_command_of_op_two {w : Command} (op : commandOp w = 2#2) :
    decode (.command w) = .setdb (commandAddr w) ((commandData w).getLsbD 0) := by
  simp [decode, decodeCommand, op]

theorem decode_command_of_op_three {w : Command} (op : commandOp w = 3#2) :
    decode (.command w) = .getdg (commandAddr w) := by
  simp [decode, decodeCommand, op]

theorem commandOp_cases (w : Command) :
    commandOp w = 0#2 ∨ commandOp w = 1#2 ∨ commandOp w = 2#2 ∨ commandOp w = 3#2 := by
  generalize commandOp w = op
  revert op
  decide

/-- Settles O3: the word of the decoded operation is the word itself with the data field masked
(`commandWord_fields_and`). -/
theorem encodeOfDecodedCommandClearsIgnoredData : Obligations.EncodeOfDecodedCommandClearsIgnoredData := by
  intro w
  have masked := commandWord_fields_and w
  refine ⟨fun op => ?_, fun op => ?_, ?_⟩
  · have whole := masked (BitVec.allOnes 16)
    rw [op, BitVec.and_allOnes] at whole
    rw [decode_command_of_op_zero op, encode, BitVec.ofNat_toNat, BitVec.setWidth_eq, whole]
    exact congrArg Code.command BitVec.and_allOnes
  · have lowBit : (if (commandData w).getLsbD 0 then 1#16 else 0#16) = commandData w &&& 1#16 := by
      rw [BitVec.and_one_eq_setWidth_ofBool_getLsbD]
      cases (commandData w).getLsbD 0 <;> rfl
    rw [decode_command_of_op_two op, encode, lowBit, ← op, masked]
    rfl
  · have noData := masked 0#16
    rw [BitVec.and_zero] at noData
    rintro (op | op)
    · rw [decode_command_of_op_one op, encode, ← op, noData]
      rfl
    · rw [decode_command_of_op_three op, encode, ← op, noData]
      rfl

end Sys2Proof
end

section
/-! PROOFS. The codes of all seven operations: decoding an encoded operation, and the operation of any code
(30_encoding.md sections 1 and 3); and that the switcher bit of a discrete request changes nothing but the output
that shows it (R56). -/

namespace Sys2Proof

/-- Settles O1, one case for each row of the opcode table: a wire operation by its byte, a port operation by the three
fields of its word. -/
theorem decodeOfEncodeIsTheInstruction : Obligations.DecodeOfEncodeIsTheInstruction := by
  intro i wf
  cases i with
  | rda idx => exact decode_analogRequest idx
  | rddInvalid g sw =>
    have illegal : 48 ≤ g.toNat := of_decide_eq_true wf
    exact decode_discreteRequest_of_not_lt illegal.not_gt sw
  | rdd g sw =>
    have field : (BitVec.ofNat 6 g.val).toNat = g.val := by
      rw [BitVec.toNat_ofNat]
      omega
    have legal : (BitVec.ofNat 6 g.val).toNat < 48 := field.trans_lt g.isLt
    rw [encode, decode_discreteRequest_of_lt legal]
    exact congrArg (Instr.rdd · sw) (Fin.ext field)
  | seta address value =>
    obtain ⟨fitsAddr, fitsData⟩ := Bool.and_eq_true_iff.mp wf
    have field : (BitVec.ofNat 16 value).toNat = value := Nat.mod_eq_of_lt (of_decide_eq_true fitsData)
    rw [encode, decode_command_of_op_zero (commandOp_commandWord ..), commandAddr_commandWord fitsAddr,
      commandData_commandWord, field]
  | geta address =>
    rw [encode, decode_command_of_op_one (commandOp_commandWord ..), commandAddr_commandWord wf]
  | setdb bitAddr on =>
    have field : (if on then 1#16 else 0#16).getLsbD 0 = on := by cases on <;> rfl
    rw [encode, decode_command_of_op_two (commandOp_commandWord ..), commandAddr_commandWord wf,
      commandData_commandWord, field]
  | getdg group =>
    rw [encode, decode_command_of_op_three (commandOp_commandWord ..), commandAddr_commandWord wf]

theorem decode_request_wellFormed (b : Byte) : (decode (.request b)).wellFormed = true := by
  rcases request_cases b with ⟨idx, rfl⟩ | ⟨g, sw, rfl⟩
  · rw [decode_analogRequest, Instr.wellFormed]
  · by_cases h : g.toNat < 48
    · rw [decode_discreteRequest_of_lt h, Instr.wellFormed]
    · rw [decode_discreteRequest_of_not_lt h]
      exact decide_eq_true (Nat.le_of_not_lt h)

theorem decode_command_wellFormed (w : Command) : (decode (.command w)).wellFormed = true := by
  have fits := fitsPortAddr_commandAddr w
  rcases commandOp_cases w with op | op | op | op
  · rw [decode_command_of_op_zero op]
    exact Bool.and_eq_true_iff.mpr ⟨fits, fitsPortData_commandData w⟩
  · rwa [decode_command_of_op_one op]
  · rwa [decode_command_of_op_two op]
  · rwa [decode_command_of_op_three op]

/-- A target of any kind stands for a wire operation (42_responder.md R112, R113, R114). -/
theorem toInstr_side (target : Target) : target.toInstr.side = .wire := by
  cases target <;> rfl

/-- Settles O4: no code is without an operation, and its operands are what its fields can carry. -/
theorem everyCodeDecodesToWellFormedOperation : Obligations.EveryCodeDecodesToWellFormedOperation := by
  refine ⟨fun c => ?_, fun b => toInstr_side _, fun w => Machine.decodeCommand_side w⟩
  cases c with
  | request b => exact decode_request_wellFormed b
  | command w => exact decode_command_wellFormed w

end Sys2Proof

namespace Sys2Proof.Machine

/-! ### The switcher bit -/

/-- Showing the switcher bit and sending a reply do not touch the same fields (42_responder.md R113). -/
theorem sendReply_showSwitch (s : State) (sw : Bool) (bytes : List Byte) :
    sendReply (showSwitch s sw) bytes = { sendReply s bytes with swObs := sw } := rfl

/-- A discrete request leads to one state whatever its switcher bit is, up to the bit shown (30_encoding.md R56). -/
theorem exec_discreteRequest {s : State} (hf : s.fault = false) (g : BitVec 6) :
    ∃ u : State, ∀ sw, ∃ shown,
      exec (decode (.request (discreteRequest g sw))) s = .next { u with swObs := shown } := by
  by_cases h : g.toNat < 48
  · refine ⟨sendReply s (discreteReply (readGroup s ⟨g.toNat, h⟩)), fun sw => ⟨sw, ?_⟩⟩
    rw [decode_discreteRequest_of_lt h, ← sendReply_showSwitch]
    exact admitted_of_unfaulted hf _
  · refine ⟨raiseWireFault s .discreteGroupRange, fun sw => ⟨s.swObs, ?_⟩⟩
    rw [decode_discreteRequest_of_not_lt h]
    exact admitted_of_unfaulted hf _

/-- Settles O25: both requests lead to the state of `exec_discreteRequest`. -/
theorem switcherBitHasNoEffect : Obligations.SwitcherBitHasNoEffect := by
  intro g s hf
  obtain ⟨u, run⟩ := exec_discreteRequest hf g
  obtain ⟨shown, run1⟩ := run true
  obtain ⟨shown', run0⟩ := run false
  exact ⟨_, _, run1, run0, rfl, rfl, rfl⟩

end Sys2Proof.Machine
end

section
/-! PROOFS. The port operations (40_store_ops.md): the data field of a command word in arithmetic, one equation for each
way an operation can end, and all the ways together. -/

namespace Sys2Proof

/-! ### The data field -/

theorem commandData_toNat (w : Command) : (commandData w).toNat = w.toNat % 65536 := by
  rw [commandData, BitVec.extractLsb'_toNat, Nat.shiftRight_zero]

/-- `data[0]` is the parity of the word (30_encoding.md R63). -/
theorem commandData_getLsbD_zero (w : Command) : (commandData w).getLsbD 0 = decide (w.toNat % 2 = 1) := by
  have parity : w.toNat % 65536 % 2 = w.toNat % 2 := by omega
  rw [← BitVec.testBit_toNat, commandData_toNat, Nat.testBit_zero, parity]

end Sys2Proof

namespace Sys2Proof.Machine

/-! ### Operands and values -/

theorem maskAnalog_toNat_eq_and (v : Nat) : (maskAnalog v).toNat = v &&& 0x3FF :=
  (maskAnalog_toNat v).trans (Nat.and_two_pow_sub_one_eq_mod v 10).symm

/-- The signal of a bit address in range, by division (40_store_ops.md R72). -/
theorem bitSlot_eq_some_iff_div_mod {b : Int} (h : 1 ≤ b ∧ b ≤ 384) (g : Fin 48) (pos : Fin 8) :
    bitSlot b = some (g, pos) ↔ (g.val : Int) = (b - 1) % 48 ∧ (pos.val : Int) = (b - 1) / 48 := by
  have group := addressToSlot_group b h
  have position := addressToSlot_position b h
  have named : bitSlot b = some (addressToSlot b h) := bitSlot_eq_some.mpr ⟨h, rfl⟩
  rw [named, Option.some.injEq, Prod.ext_iff, Fin.ext_iff, Fin.ext_iff]
  dsimp only
  omega

/-- The two zero bits above a group on the data output hide none of its bits (50_interfaces.md R135). -/
theorem setWidth_group_getLsbD (raw : Byte) (pos : Fin 8) : (raw.setWidth 10).getLsbD pos.val = raw.getLsbD pos.val := by
  have fits : pos.val < 10 := by omega
  rw [BitVec.getLsbD_setWidth, decide_eq_true fits, Bool.true_and]

/-! ### `SETA` -/

theorem exec_seta_of_slot {s : State} (hf : s.fault = false) {address : Int} {i : Fin 128}
    (hi : (i.val : Int) = address - 1) (v : Nat) :
    exec (.seta address v) s = .next (deliverResult (writeAnalog s i (maskAnalog v)) .ok) := by
  rw [exec, execSeta, externalSlot_eq_some.mpr hi]
  exact admitted_of_unfaulted hf _

theorem exec_seta_out_of_range {s : State} (hf : s.fault = false) {address : Int}
    (out : address < 1 ∨ 128 < address) (v : Nat) :
    exec (.seta address v) s = .next (raisePortError s .analogAddressRange) := by
  rw [exec, execSeta, externalSlot_eq_none.mpr out]
  exact admitted_of_unfaulted hf _

/-! ### `GETA` -/

theorem exec_geta_of_slot {s : State} (hf : s.fault = false) {address : Int} {i : Fin 128}
    (hi : (i.val : Int) = address - 1) :
    exec (.geta address) s = .next (deliverResult s (.data (readAnalog s i))) := by
  rw [exec, execGeta, externalSlot_eq_some.mpr hi]
  exact admitted_of_unfaulted hf _

theorem exec_geta_out_of_range {s : State} (hf : s.fault = false) {address : Int}
    (out : address < 1 ∨ 128 < address) :
    exec (.geta address) s = .next (raisePortError s .analogAddressRange) := by
  rw [exec, execGeta, externalSlot_eq_none.mpr out]
  exact admitted_of_unfaulted hf _

/-- External address `k + 1` reads slot `k` (20_memory.md R31). -/
theorem exec_geta_succ {s : State} (hf : s.fault = false) (k : Fin 128) :
    exec (.geta (k.val + 1)) s = .next (deliverResult s (.data (readAnalog s k))) :=
  exec_geta_of_slot hf (by omega)

/-! ### `SETDB` -/

theorem exec_setdb_in_range {s : State} (hf : s.fault = false) {b : Int} (h : 1 ≤ b ∧ b ≤ 384) (on : Bool) :
    exec (.setdb b on) s =
      .next (deliverResult (writeGroupBit s (addressToSlot b h).1 (addressToSlot b h).2 on) .ok) := by
  rw [exec, execSetdb, bitSlot_eq_some.mpr ⟨h, rfl⟩]
  exact admitted_of_unfaulted hf _

theorem exec_setdb_out_of_range {s : State} (hf : s.fault = false) {b : Int} (out : b < 1 ∨ 384 < b) (on : Bool) :
    exec (.setdb b on) s = .next (raisePortError s .discreteBitAddressRange) := by
  rw [exec, execSetdb, bitSlot_eq_none.mpr out]
  exact admitted_of_unfaulted hf _

/-! ### `GETDG` -/

theorem exec_getdg_of_group {s : State} (hf : s.fault = false) {group : Int} {g : Fin 48} (hg : (g.val : Int) = group) :
    exec (.getdg group) s = .next (deliverResult s (.data ((readGroup s g).setWidth 10))) := by
  rw [exec, execGetdg, groupIndex_eq_some.mpr hg]
  exact admitted_of_unfaulted hf _

theorem exec_getdg_out_of_range {s : State} (hf : s.fault = false) {group : Int} (out : group < 0 ∨ 47 < group) :
    exec (.getdg group) s = .next (raisePortError s .discreteGroupRange) := by
  rw [exec, execGetdg, groupIndex_eq_none.mpr out]
  exact admitted_of_unfaulted hf _

/-! ### All four -/

/-- THE CASES OF A PORT OPERATION, from its next state: a slot written or a bit written, with the result ok, or a result
delivered over the tables as they were. -/
theorem exec_port_next_cases {i : Instr} {s t : State} (hi : i.side = .port) (h : exec i s = .next t) :
    (∃ k v, t = deliverResult (writeAnalog s k v) .ok) ∨
    (∃ g pos on, t = deliverResult (writeGroupBit s g pos on) .ok) ∨
    ∃ r, t = deliverResult s r := by
  cases i with
  | rda | rddInvalid | rdd => cases hi
  | seta a v =>
    obtain ⟨-, rfl⟩ := admitted_eq_next.mp h
    split
    · exact .inl ⟨_, _, rfl⟩
    · exact .inr (.inr ⟨_, rfl⟩)
  | setdb b on =>
    obtain ⟨-, rfl⟩ := admitted_eq_next.mp h
    split
    · exact .inr (.inl ⟨_, _, _, rfl⟩)
    · exact .inr (.inr ⟨_, rfl⟩)
  | geta a =>
    obtain ⟨r, run⟩ := exec_port_read (.inl ⟨a, rfl⟩) s
    rw [run s rfl rfl] at h
    exact .inr (.inr ⟨r, (admitted_eq_next.mp h).2.symm⟩)
  | getdg g =>
    obtain ⟨r, run⟩ := exec_port_read (.inr ⟨g, rfl⟩) s
    rw [run s rfl rfl] at h
    exact .inr (.inr ⟨r, (admitted_eq_next.mp h).2.symm⟩)

/-- A refused operation is neither of the two writes, whose result is ok (60_exceptions.md R152). -/
theorem exec_port_refused_tables {i : Instr} {c : Cause} {s t : State} (hi : i.side = .port) (h : exec i s = .next t)
    (refused : t.results = s.results ++ [.err c]) : t.A = s.A ∧ t.D = s.D := by
  rcases exec_port_next_cases hi h with ⟨k, v, rfl⟩ | ⟨g, pos, on, rfl⟩ | ⟨r, rfl⟩
  · simp at refused
  · simp at refused
  · exact ⟨rfl, rfl⟩

/-- A port operation leaves FAULT at 0 (60_exceptions.md R152). -/
theorem exec_port_unfaulted {i : Instr} {s t : State} (hi : i.side = .port) (h : exec i s = .next t) :
    t.fault = false := by
  obtain ⟨hf, A, D, r, rfl⟩ := exec_port_shape hi h
  exact hf

end Sys2Proof.Machine
end

section
/-! PROOFS. The four port operations in and out of range (40_store_ops.md R70 to R74), and the laws of the store
(R77). -/

namespace Sys2Proof.Machine

/-- Settles O13: the signal addressed is `bitSlot`'s, and `exec_setdb_getLsbD` gives every bit after the write. -/
theorem setdbWritesOneBitOrRefuses : Obligations.SetdbWritesOneBitOrRefuses := by
  refine ⟨fun w op => ?_, fun b on s hf => ⟨fun range => ?_, fun out => exec_setdb_out_of_range hf out on⟩⟩
  · rw [decode_command_of_op_two op, commandData_getLsbD_zero]
  · have run := exec_setdb_in_range hf range on
    refine ⟨_, run, rfl, fun g pos => ?_⟩
    rw [exec_setdb_getLsbD run g pos]
    exact if_congr (bitSlot_eq_some_iff_div_mod range g pos) rfl rfl

/-- `SETA` of external address `k + 1`, then any slot (40_store_ops.md R77). -/
theorem readAnalog_after_seta {k : Fin 128} {v : Nat} {s t : State} (h : exec (.seta (k.val + 1) v) s = .next t)
    (k' : Fin 128) : readAnalog t k' = if k = k' then maskAnalog v else readAnalog s k' := by
  obtain rfl := exec_seta_succ h
  exact readAnalog_writeAnalog s k k' (maskAnalog v)

/-- `SETA` of external address `k + 1`, then any group (40_store_ops.md R77). -/
theorem readGroup_after_seta {k : Fin 128} {v : Nat} {s t : State} (h : exec (.seta (k.val + 1) v) s = .next t)
    (g : Fin 48) : readGroup t g = readGroup s g := by
  obtain rfl := exec_seta_succ h
  rfl

/-- `SETDB`, then the bit of any address in range (40_store_ops.md R77). -/
theorem groupBit_after_setdb {b b' : Int} (h' : 1 ≤ b' ∧ b' ≤ 384) {on : Bool} {s t : State}
    (ht : exec (.setdb b on) s = .next t) :
    (readGroup t (addressToSlot b' h').1).getLsbD (addressToSlot b' h').2.val =
      if b' = b then on else (readGroup s (addressToSlot b' h').1).getLsbD (addressToSlot b' h').2.val := by
  have named : bitSlot b' = some (addressToSlot b' h') := bitSlot_eq_some.mpr ⟨h', rfl⟩
  have same : bitSlot b = some (addressToSlot b' h') ↔ b' = b :=
    ⟨fun e => bitSlot_injective named e, fun e => e ▸ named⟩
  rw [exec_setdb_getLsbD ht]
  exact if_congr same rfl rfl

/-- `GETDG` answers a value whose bit at `pos` is the group's. -/
theorem exec_getdg_bit {s : State} (hf : s.fault = false) (g : Fin 48) (pos : Fin 8) :
    ∃ d : Slot, d.getLsbD pos.val = (readGroup s g).getLsbD pos.val ∧
      exec (.getdg g.val) s = .next (deliverResult s (.data d)) :=
  ⟨_, setWidth_group_getLsbD _ pos, exec_getdg_of_group hf rfl⟩

/-- Settles O16: what each read after a write answers is a read of the written state, which the write changes at the
slot or the bit it names only. -/
theorem storeLaws : Obligations.StoreLaws := by
  intro s _
  refine ⟨fun k v t ht => ?_, fun b h on t ht => ?_, fun i c t hi ht refused => exec_port_refused_tables hi ht refused⟩
  · have hf := exec_port_unfaulted (i := .seta (k.val + 1) v) rfl ht
    refine ⟨⟨maskAnalog v, maskAnalog_toNat_eq_and v, ?_⟩, fun k' other => ?_, fun g => ?_⟩
    · have read := (readAnalog_after_seta ht k).trans (if_pos rfl)
      exact read ▸ exec_geta_succ hf k
    · have read := (readAnalog_after_seta ht k').trans (if_neg other.symm)
      exact read ▸ exec_geta_succ hf k'
    · exact readGroup_after_seta ht g ▸ exec_getdg_of_group hf rfl
  · have hf := exec_port_unfaulted (i := .setdb b on) rfl ht
    refine ⟨?_, fun b' h' other => ?_, fun k => ?_⟩
    · have bit := (groupBit_after_setdb h ht).trans (if_pos rfl)
      exact bit ▸ exec_getdg_bit hf _ _
    · have bit := (groupBit_after_setdb h' ht).trans (if_neg other)
      exact bit ▸ exec_getdg_bit hf _ _
    · have read : readAnalog t k = readAnalog s k := by rw [readAnalog, exec_setdb_A ht, readAnalog]
      exact read ▸ exec_geta_succ hf k

/-- Settles O11: `readAnalog_writeAnalog` gives every slot after the write. -/
theorem setaStoresMaskedValueOrRefuses : Obligations.SetaStoresMaskedValueOrRefuses := by
  refine ⟨fun w op => ?_, fun address v s hf => ⟨fun range => ?_, fun out => exec_seta_out_of_range hf out v⟩⟩
  · rw [decode_command_of_op_zero op, commandData_toNat]
  · obtain ⟨k, hk⟩ : ∃ k : Fin 128, (k.val : Int) = address - 1 :=
      ⟨⟨(address - 1).toNat, by omega⟩, Int.toNat_of_nonneg (by omega)⟩
    refine ⟨_, exec_seta_of_slot hf hk v, rfl, fun i => ?_⟩
    have read : readAnalog (deliverResult (writeAnalog s k (maskAnalog v)) .ok) i =
        if k = i then maskAnalog v else readAnalog s i := readAnalog_writeAnalog s k i (maskAnalog v)
    split
    case isTrue addressed =>
      have same : k = i := Fin.ext (by omega)
      rw [read, if_pos same, maskAnalog_toNat_eq_and]
    case isFalse other =>
      have different : k ≠ i := fun same => other (same ▸ hk)
      rw [read, if_neg different]

/-- Settles O12: the two ways `GETA` can end are `exec_geta_of_slot` and `exec_geta_out_of_range`. -/
theorem getaReturnsSlotOrRefuses : Obligations.GetaReturnsSlotOrRefuses :=
  ⟨fun _ op => decode_command_of_op_one op, fun _ _ hf =>
    ⟨fun _ hi => exec_geta_of_slot hf hi, fun out => exec_geta_out_of_range hf out⟩⟩

/-- Settles O14: zero-extension keeps the value of a group. -/
theorem getdgReturnsRawGroupOrRefuses : Obligations.GetdgReturnsRawGroupOrRefuses := by
  refine ⟨fun w op => decode_command_of_op_three op, fun group s hf =>
    ⟨fun g hg => ⟨_, ?_, exec_getdg_of_group hf hg⟩, fun out => exec_getdg_out_of_range hf out⟩⟩
  exact BitVec.toNat_setWidth_of_le (by decide)

end Sys2Proof.Machine
end

section
/-! PROOFS. The codec in arithmetic: the fields of a request byte (41_codec.md R90), the two bytes of the analog framing
and the value read back from them (R91, R92, R93), and the discrete complement (R94). -/

namespace Sys2Proof

/-! ### The request decoder -/

/-- The switcher bit of a class 0 byte, as a bound on the byte (30_encoding.md R53). -/
theorem requestSw_eq {b : Byte} (class0 : b.toNat < 128) : requestSw b = decide (64 ≤ b.toNat) := by
  have bit6 : requestSw b = decide (b.toNat / 64 % 2 = 1) := Nat.testBit_eq_decide_div_mod_eq
  rw [bit6, decide_eq_decide]
  omega

theorem decodeRequest_of_class_one {b : Byte} (class1 : 128 ≤ b.toNat) :
    decodeRequest b = .analog (requestIdx b) := by
  rw [decodeRequest, requestClass_eq, if_pos (decide_eq_true class1)]

theorem decodeRequest_of_class_zero {b : Byte} (class0 : b.toNat < 128) :
    decodeRequest b =
      if h : (requestGroupField b).toNat < 48 then .discrete ⟨(requestGroupField b).toNat, h⟩ (requestSw b)
      else .invalid (requestGroupField b) (requestSw b) := by
  rw [decodeRequest, requestClass_eq, if_neg (by simpa using class0)]

/-- Settles O5: by the class of the byte, and in class 0 by its group field. -/
theorem requestDecoderMap : Obligations.RequestDecoderMap := by
  intro b
  have byte : b.toNat < 256 := b.isLt
  rcases Nat.lt_or_ge b.toNat 128 with class0 | class1
  · have field := requestGroupField_toNat b
    have sw := requestSw_eq class0
    rw [decodeRequest_of_class_zero class0]
    by_cases group : (requestGroupField b).toNat < 48
    · rw [dif_pos group]
      exact ⟨class0, field, sw⟩
    · rw [dif_neg group]
      exact ⟨class0, by omega, field, sw⟩
  · have idx := requestIdx_val b
    rw [decodeRequest_of_class_one class1]
    exact ⟨class1, by omega⟩

end Sys2Proof

namespace Sys2Proof.Machine

/-! ### The analog framing -/

/-- `low6` is the tag `11` above the low six bits (41_codec.md R91). -/
theorem encodeAnalog_low_toNat (v : Slot) : (encodeAnalog v).1.toNat = 192 + v.toNat % 64 := by
  have mask : v.toNat % 256 &&& 63 = v.toNat % 256 % 2 ^ 6 := Nat.and_two_pow_sub_one_eq_mod _ 6
  have tag : 2 ^ 6 * 3 + v.toNat % 64 = 2 ^ 6 * 3 ||| v.toNat % 64 :=
    Nat.two_pow_add_eq_or_of_lt (Nat.mod_lt _ (by decide)) 3
  calc (encodeAnalog v).1.toNat
      _ = 192 ||| (v.toNat % 256 &&& 63) := by simp [encodeAnalog]
      _ = 192 ||| v.toNat % 64 := by rw [mask]; congr 1; omega
      _ = 192 + v.toNat % 64 := tag.symm

/-- `high4` is the high four bits; the mask drops nothing of a 10-bit value (41_codec.md R91). -/
theorem encodeAnalog_high_toNat (v : Slot) : (encodeAnalog v).2.toNat = v.toNat / 64 := by
  have slot : v.toNat < 1024 := v.isLt
  have shift : v.toNat >>> 6 = v.toNat / 64 := Nat.shiftRight_eq_div_pow _ 6
  have mask : v.toNat / 64 % 256 &&& 15 = v.toNat / 64 % 256 % 2 ^ 4 := Nat.and_two_pow_sub_one_eq_mod _ 4
  calc (encodeAnalog v).2.toNat
      _ = v.toNat / 64 % 256 &&& 15 := by simp [encodeAnalog, shift]
      _ = v.toNat / 64 := by omega

/-- The requester reads the low four bits of `high4` above the low six of `low6` (41_codec.md R92). -/
theorem decodeAnalog_toNat (low6 high4 : Byte) :
    (decodeAnalog low6 high4).toNat = 64 * (high4.toNat % 16) + low6.toNat % 64 := by
  have lowMask : low6.toNat &&& 63 = low6.toNat % 2 ^ 6 := Nat.and_two_pow_sub_one_eq_mod _ 6
  have highMask : high4.toNat &&& 15 = high4.toNat % 2 ^ 4 := Nat.and_two_pow_sub_one_eq_mod _ 4
  have join : 2 ^ 6 * (high4.toNat % 16) + low6.toNat % 64 = 2 ^ 6 * (high4.toNat % 16) ||| low6.toNat % 64 :=
    Nat.two_pow_add_eq_or_of_lt (Nat.mod_lt _ (by decide)) _
  have high : (high4.toNat % 16 % 1024) <<< 6 % 1024 = 2 ^ 6 * (high4.toNat % 16) := by
    rw [Nat.shiftLeft_eq]; omega
  have low : low6.toNat % 64 % 1024 = low6.toNat % 64 := by omega
  calc (decodeAnalog low6 high4).toNat
      _ = (high4.toNat % 16 % 1024) <<< 6 % 1024 ||| low6.toNat % 64 % 1024 := by
        simp only [decodeAnalog, BitVec.toNat_or, BitVec.toNat_shiftLeft, BitVec.toNat_setWidth, BitVec.toNat_and,
          BitVec.toNat_ofNat, Nat.reducePow, Nat.reduceMod, lowMask, highMask]
      _ = 64 * (high4.toNat % 16) + low6.toNat % 64 := by rw [high, low]; exact join.symm

theorem decodeAnalog_encodeAnalog (v : Slot) : decodeAnalog (encodeAnalog v).1 (encodeAnalog v).2 = v := by
  apply BitVec.eq_of_toNat_eq
  have slot : v.toNat < 1024 := v.isLt
  rw [decodeAnalog_toNat, encodeAnalog_low_toNat, encodeAnalog_high_toNat]
  omega

theorem encodeAnalog_injective : Function.Injective encodeAnalog := fun v w same =>
  calc v
      _ = decodeAnalog (encodeAnalog v).1 (encodeAnalog v).2 := (decodeAnalog_encodeAnalog v).symm
      _ = decodeAnalog (encodeAnalog w).1 (encodeAnalog w).2 := by rw [same]
      _ = w := decodeAnalog_encodeAnalog w

/-- The frames the encoder makes: tag `11` in `low6`, zero above the low four bits of `high4` (41_codec.md R93). -/
theorem encodeAnalog_decodeAnalog_iff (low6 high4 : Byte) :
    encodeAnalog (decodeAnalog low6 high4) = (low6, high4) ↔ 0xC0 ≤ low6.toNat ∧ high4.toNat ≤ 0x0F := by
  have lowByte : low6.toNat < 256 := low6.isLt
  rw [Prod.ext_iff, ← BitVec.toNat_inj, ← BitVec.toNat_inj, encodeAnalog_low_toNat, encodeAnalog_high_toNat,
    decodeAnalog_toNat]
  dsimp only
  omega

/-- Settles O7: the decoder is a left inverse of the encoder, and each byte is compared in arithmetic. -/
theorem analogFramingRoundTrip : Obligations.AnalogFramingRoundTrip :=
  ⟨decodeAnalog_encodeAnalog, fun _ _ same => encodeAnalog_injective same, encodeAnalog_decodeAnalog_iff⟩

/-- Settles O8: the two bytes are `encodeAnalog`'s, in the order of the reply. -/
theorem analogReplyBytes : Obligations.AnalogReplyBytes := by
  intro v
  rw [analogReply, List.map_cons, List.map_singleton, encodeAnalog_low_toNat, encodeAnalog_high_toNat]

/-! ### The discrete complement -/

theorem encodeDiscrete_toNat (raw : Byte) : (encodeDiscrete raw).toNat = 255 - raw.toNat := BitVec.toNat_not

theorem encodeDiscrete_getLsbD (raw : Byte) (pos : Fin 8) :
    (encodeDiscrete raw).getLsbD pos.val = !raw.getLsbD pos.val := by
  rw [encodeDiscrete, BitVec.getLsbD_not, decide_eq_true pos.isLt, Bool.true_and]

theorem encodeDiscrete_involutive : Function.Involutive encodeDiscrete := fun _ => BitVec.not_not

/-- Settles O9: the complement in value, per bit and as its own inverse. -/
theorem discreteReplyIsComplement : Obligations.DiscreteReplyIsComplement := fun raw =>
  ⟨congrArg (fun n => [n]) (encodeDiscrete_toNat raw), encodeDiscrete_getLsbD raw, encodeDiscrete_involutive raw⟩

end Sys2Proof.Machine
end

section
/-! PROOFS. The moves of the block: what a step other than reset does, as one relation, and what every move does to
FAULT and the requests (42_responder.md R110, R111), to the outputs (R116) and to the pending reset. -/

namespace Sys2Proof.Machine

/-! ### Moves -/

/-- What a step other than reset can do to a state with FAULT = 0: the block waits, takes a request byte, takes the
wire fault over the request held, replies to it, hands over unsent bytes, or answers a command. The step makes the
move on its state up to the schedule's counter (`step_reset_or_move`). -/
inductive Move (s : State) : State → Prop where
  | wait : Move s s
  | accept {b : Byte} {rest : List Byte} (waiting : s.phase = .waitByte) (oldest : s.rx = b :: rest) :
      Move s (acceptByte s b rest)
  | fault {b : Byte} (dispatching : s.phase = .dispatch) (fresh : s.unsent = []) (held : s.req = some b)
      (illegal : illegalRequest b = true) : Move s (raiseWireFault s .discreteGroupRange)
  | reply {b : Byte} (sw : Bool) (dispatching : s.phase = .dispatch) (fresh : s.unsent = []) (held : s.req = some b)
      (legal : illegalRequest b = false) : Move s (sendReply (showSwitch s sw) (replyTo b s.A s.D))
  | send (dispatching : s.phase = .dispatch) (begun : s.unsent ≠ []) : Move s (handOver s)
  | command {w : Command} {rest : List Command} (A : Vector Slot 128) (D : Vector Byte 48) (r : PortResult)
      (oldest : s.port = w :: rest) : Move s { s with A := A, D := D, results := s.results ++ [r], port := rest }

theorem step_reset_or_move {s t : State} (h : step s = .next t) :
    (s.resetReq = true ∧ t = resetEvent s) ∨
    (s.resetReq = false ∧ s.fault = false ∧ ∃ n, Move { s with turn := n } t) := by
  rcases step_next_cases h with reset | ⟨hr, hf, rfl | ⟨s', hs', move⟩⟩
  · exact .inl reset
  · exact .inr ⟨hr, hf, t.turn, .wait⟩
  obtain ⟨n, rfl⟩ := eq_withTurn_of_serialised hs'
  refine .inr ⟨hr, hf, n, ?_⟩
  rcases move with ⟨b, rest, hw, hx, rfl⟩ | ⟨b, hd, hu, hq, run⟩ | ⟨hd, hu, -, rfl⟩ | ⟨w, rest, hp, run⟩
  · exact .accept hw hx
  · rcases exec_request_next_cases run with ⟨illegal, rfl⟩ | ⟨legal, sw, rfl⟩
    · exact .fault hd hu hq illegal
    · exact .reply sw hd hu hq legal
  · exact .send hd hu
  · obtain ⟨-, A, D, r, rfl⟩ := exec_port_shape (decodeCommand_side w) run
    exact .command A D r hp

theorem move_of_step {s t : State} (h : step s = .next t) (hr : s.resetReq = false) :
    s.fault = false ∧ ∃ n, Move { s with turn := n } t := by
  rcases step_reset_or_move h with ⟨reset, -⟩ | ⟨-, move⟩
  · simp [hr] at reset
  · exact move

/-- No move makes a reset pending or uses one up. -/
theorem Move.resetReq {s t : State} (h : Move s t) : t.resetReq = s.resetReq := by
  cases h <;> rfl

/-! ### Legal traffic -/

theorem step_next_of_unfaulted {s : State} (hf : s.fault = false) : ∃ t, step s = .next t := by
  rcases step_cases s with ⟨-, e⟩ | ⟨-, set, -⟩ | ⟨-, -, e | ⟨s', hs', move⟩⟩
  · exact ⟨_, e⟩
  · simp [hf] at set
  · exact ⟨_, e⟩
  obtain ⟨n, rfl⟩ := eq_withTurn_of_serialised hs'
  rcases move with ⟨b, rest, -, -, e⟩ | ⟨b, -, -, -, e⟩ | ⟨-, -, -, e⟩ | ⟨w, rest, -, e⟩
  · exact ⟨_, e⟩
  · rw [e]
    exact exec_next_of_unfaulted _ hf
  · exact ⟨_, e⟩
  · rw [e]
    exact exec_next_of_unfaulted _ hf

/-- Legal traffic speaks of FAULT and of the requests: dropping the one held or keeping it keeps it legal. -/
theorem State.LegalTraffic.of_req_kept_or_dropped {s t : State} (h : s.LegalTraffic) (hfault : t.fault = s.fault)
    (hreq : t.req = none ∨ t.req = s.req) (hrx : t.rx = s.rx) : t.LegalTraffic where
  noFault := hfault.trans h.noFault
  held b hb := by
    rcases hreq with dropped | same
    · simp [dropped] at hb
    · exact h.held b (same ▸ hb)
  waiting := hrx ▸ h.waiting

theorem handOver_req_eq (s : State) : (handOver s).req = none ∨ (handOver s).req = s.req := by
  rw [handOver_req]
  split
  · exact .inl rfl
  · exact .inr rfl

/-- The byte taken was waiting, so it is legal too. -/
theorem acceptByte_legalTraffic {s : State} (h : s.LegalTraffic) {b : Byte} {rest : List Byte}
    (oldest : s.rx = b :: rest) : (acceptByte s b rest).LegalTraffic where
  noFault := h.noFault
  held b' hb' := by
    cases hb'
    exact h.waiting b (by simp [oldest])
  waiting b' hb' := h.waiting b' (by simp [oldest, show b' ∈ rest from hb'])

/-- Legal traffic rules the wire fault out, and no other move sets FAULT. -/
theorem Move.legalTraffic {s t : State} (h : Move s t) (legal : s.LegalTraffic) : t.LegalTraffic := by
  cases h with
  | wait => exact legal
  | accept _ oldest => exact acceptByte_legalTraffic legal oldest
  | fault _ _ held illegal => simp [legal.held _ held] at illegal
  | reply | send => exact legal.of_req_kept_or_dropped rfl (handOver_req_eq _) rfl
  | command => exact legal.of_req_kept_or_dropped rfl (.inr rfl) rfl

theorem step_legalTraffic {s t : State} (legal : s.LegalTraffic) (h : step s = .next t) : t.LegalTraffic := by
  rcases step_reset_or_move h with ⟨-, rfl⟩ | ⟨-, -, n, move⟩
  · exact legal.of_req_kept_or_dropped legal.noFault.symm (.inl rfl) rfl
  · exact move.legalTraffic ⟨legal.noFault, legal.held, legal.waiting⟩

/-- Settles O51: with FAULT = 0 there is a next state, and a step keeps the traffic legal. -/
theorem legalTrafficNeverStops : Obligations.LegalTrafficNeverStops := by
  intro s legal
  obtain ⟨t, h⟩ := step_next_of_unfaulted legal.noFault
  exact ⟨t, h, step_legalTraffic legal h⟩

/-! ### Stops -/

/-- While FAULT = 1 no operation is admitted (60_exceptions.md R154). -/
theorem exec_of_faulted (i : Instr) {s : State} (h : s.fault = true) : exec i s = .fault .blockFaulted := by
  cases i <;> exact admitted_of_faulted h _

/-- Settles O37: with FAULT = 0 the step and every operation have a next state, and of the cases of a step only the
stop starts from FAULT = 1 with no reset pending. -/
theorem onlyStandingFaultStopsTheBlock : Obligations.OnlyStandingFaultStopsTheBlock := by
  refine fun s => ⟨?_, fun hf i => exec_next_of_unfaulted i hf, fun hf i => exec_of_faulted i hf⟩
  rcases step_cases s with ⟨-, e⟩ | ⟨hr, hf, e⟩ | ⟨-, hf, -⟩
  · exact .inl ⟨_, e⟩
  · exact .inr ⟨hf, hr, e⟩
  · exact .inl (step_next_of_unfaulted hf)

/-! ### Outputs -/

/-- The transmit stream and the results grow at their ends, and a move adds to one of them at most. -/
theorem Move.outputs {s t : State} (h : Move s t) :
    (∃ bytes, t.tx = s.tx ++ bytes ∧ t.results = s.results) ∨ ∃ r, t.tx = s.tx ∧ t.results = s.results ++ [r] := by
  cases h with
  | wait | accept | fault => exact .inl ⟨[], by simp⟩
  | reply | send => exact .inl ⟨_, rfl, rfl⟩
  | command A D r => exact .inr ⟨r, rfl, rfl⟩

/-- Settles O45: a step other than reset is a move. -/
theorem outputsOnlyGrow : Obligations.OutputsOnlyGrow := by
  intro s t h hr
  obtain ⟨-, n, move⟩ := move_of_step h hr
  rcases move.outputs with ⟨bytes, tx, results⟩ | ⟨r, tx, results⟩
  · exact ⟨⟨bytes, tx⟩, ⟨[], by simp [results]⟩, .inr results⟩
  · exact ⟨⟨[], by simp [tx]⟩, ⟨[r], results, le_rfl⟩, .inl tx⟩

/-! ### Request bytes -/

theorem step_of_byte {s : State} {b : Byte} {rest : List Byte} (hr : s.resetReq = false) (hf : s.fault = false)
    (hw : s.phase = .waitByte) (hx : s.rx = b :: rest) (hp : s.port = []) :
    step s = .next (acceptByte s b rest) := by
  apply step_of_move
  rw [nextAction_eq_serialise hr hf, serialise_of_only_wire (wireAction_of_byte hw hx) (portAction_of_no_command hp)]

/-- What waits with the transport stays there, but for the oldest byte taken in WaitByte (42_responder.md R111). -/
theorem Move.rx {s t : State} (h : Move s t) :
    t.rx = s.rx ∨ s.phase = .waitByte ∧ ∃ b, s.rx = b :: t.rx ∧ t = acceptByte s b t.rx := by
  cases h with
  | accept waiting oldest => exact .inr ⟨waiting, _, oldest, rfl⟩
  | wait | fault | reply | send | command => exact .inl rfl

/-- Settles O31: of the moves only `Move.accept` takes a byte, and a reset leaves the bytes with the transport. -/
theorem requestByteTakenOnlyInWaitByte : Obligations.RequestByteTakenOnlyInWaitByte := by
  refine ⟨fun s b rest hr hf hw hx hp => step_of_byte hr hf hw hx hp, fun s t h => ?_⟩
  rcases step_reset_or_move h with ⟨-, rfl⟩ | ⟨-, hf, n, move⟩
  · exact .inl rfl
  rcases move.rx with same | ⟨waiting, b, oldest, taken⟩
  · exact .inl same
  · obtain rfl : t.turn = n := by rw [taken]; rfl
    exact .inr ⟨waiting, hf, b, oldest, taken⟩

end Sys2Proof.Machine
end

section
/-! PROOFS. The wire operations (42_responder.md section 1): their frame (R119), their replies with room for all bytes
(R112, R113) and for some (R120), and the wire fault (R114). -/

namespace Sys2Proof.Machine

/-! ### The frame -/

/-- THE CASES OF A WIRE OPERATION, from its next state: the wire fault taken, or a switcher bit shown and a
reply sent. -/
theorem exec_wire_next_cases {i : Instr} {s t : State} (hi : i.side = .wire) (h : exec i s = .next t) :
    t = raiseWireFault s .discreteGroupRange ∨ ∃ sw bytes, t = sendReply (showSwitch s sw) bytes := by
  cases i with
  | seta | geta | setdb | getdg => cases hi
  | rda idx =>
    obtain ⟨-, rfl⟩ := admitted_eq_next.mp h
    exact .inr ⟨s.swObs, _, rfl⟩
  | rddInvalid g sw =>
    obtain ⟨-, rfl⟩ := admitted_eq_next.mp h
    exact .inl rfl
  | rdd g sw =>
    obtain ⟨-, rfl⟩ := admitted_eq_next.mp h
    exact .inr ⟨sw, _, rfl⟩

/-- Settles O24: neither the wire fault nor a reply touches the fields named. -/
theorem wireOperationsNeverWriteTheStore : Obligations.WireOperationsNeverWriteTheStore := by
  intro i s t hi h
  rcases exec_wire_next_cases hi h with rfl | ⟨sw, bytes, rfl⟩
  · exact ⟨rfl, rfl, rfl, rfl, rfl, rfl, rfl⟩
  · exact ⟨rfl, rfl, rfl, rfl, rfl, rfl, rfl⟩

/-! ### The step that runs a request, and the step that goes on with its reply -/

theorem step_of_held {s : State} {b : Byte} (hr : s.resetReq = false) (hf : s.fault = false)
    (hd : s.phase = .dispatch) (hu : s.unsent = []) (hq : s.req = some b) (hp : s.port = []) :
    step s = exec (decode (.request b)) s := by
  apply step_of_run
  rw [nextAction_eq_serialise hr hf, serialise_of_only_wire (wireAction_of_held hd hu hq) (portAction_of_no_command hp)]

/-- Settles O29: the wire side has the move, and the port has none. -/
theorem stepRunsHeldRequest : Obligations.StepRunsHeldRequest :=
  fun _ _ hr hf hd hu hq hp => step_of_held hr hf hd hu hq hp

/-- The transaction ends with its last byte and not before (42_responder.md R116). -/
theorem handOver_phase_eq_waitByte_iff (s : State) : (handOver s).phase = .waitByte ↔ (handOver s).unsent = [] := by
  simp

theorem handOver_unsent_length {s : State} {k : Nat} (hroom : s.txRoom = some k) :
    (handOver s).unsent.length = s.unsent.length - k := by
  rw [handOver_of_limited_room hroom, List.length_drop]

/-- Settles O32: the step hands over, and `handOver_stream` has the order of the bytes. -/
theorem unsentBytesAreHandedOver : Obligations.UnsentBytesAreHandedOver := by
  refine fun s hr hf hd hu hp => ⟨fun hroom => ?_, fun k hroom hk => ?_⟩
  · have run := step_of_unsent hr hf hd hu (by simp [hroom]) hp
    rw [run, handOver_of_room hroom]
  · have run := step_of_unsent hr hf hd hu (by simp [hroom, hk.ne']) hp
    exact ⟨_, run, handOver_stream s, handOver_unsent_length hroom, handOver_phase_eq_waitByte_iff s, rfl, rfl, rfl⟩

/-! ### Replies -/

theorem decodeRequest_of_toNat_analog {b : Byte} {idx : Fin 128} (code : b.toNat = 128 + idx.val) :
    decodeRequest b = .analog idx := by
  have index : requestIdx b = idx := Fin.ext (by rw [requestIdx_val]; omega)
  rw [decodeRequest_of_class_one (by omega), index]

theorem decodeRequest_of_toNat_discrete {b : Byte} {g : Fin 48} {sw : Bool}
    (code : b.toNat = (if sw then 64 else 0) + g.val) : decodeRequest b = .discrete g sw := by
  have group := g.isLt
  have class0 : b.toNat < 128 := by split at code <;> omega
  have field : (requestGroupField b).toNat = g.val := by
    rw [requestGroupField_toNat]
    split at code <;> omega
  have switcher : requestSw b = sw := by
    rw [requestSw_eq class0]
    cases sw with
    | false =>
      have low : b.toNat = g.val := by simpa using code
      exact decide_eq_false (by omega)
    | true =>
      have high : b.toNat = 64 + g.val := code
      exact decide_eq_true (by omega)
  rw [decodeRequest_of_class_zero class0, dif_pos (by omega), switcher]
  exact congrArg (Target.discrete · sw) (Fin.ext field)

/-- The two bytes of an analog reply in arithmetic (41_codec.md R91). -/
theorem analogReply_eq (v : Slot) :
    analogReply v = [BitVec.ofNat 8 (192 + v.toNat % 64), BitVec.ofNat 8 (v.toNat / 64)] := by
  rw [analogReply, ← encodeAnalog_low_toNat, ← encodeAnalog_high_toNat, BitVec.ofNat_toNat, BitVec.ofNat_toNat,
    BitVec.setWidth_eq, BitVec.setWidth_eq]

/-- The byte of a discrete reply in arithmetic (41_codec.md R94). -/
theorem discreteReply_eq (raw : Byte) : discreteReply raw = [BitVec.ofNat 8 (255 - raw.toNat)] := by
  rw [discreteReply, ← encodeDiscrete_toNat, BitVec.ofNat_toNat, BitVec.setWidth_eq]

theorem exec_rda {s : State} (hf : s.fault = false) (idx : Fin 128) :
    exec (.rda idx) s = .next (sendReply s (analogReply (readAnalog s idx))) := admitted_of_unfaulted hf _

theorem exec_rdd {s : State} (hf : s.fault = false) (g : Fin 48) (sw : Bool) :
    exec (.rdd g sw) s = .next (sendReply (showSwitch s sw) (discreteReply (readGroup s g))) :=
  admitted_of_unfaulted hf _

/-- Settles O20: with room for all its bytes a reply goes out whole (`sendReply_of_room`). -/
theorem rdaAnswersSlotWithTwoBytes : Obligations.RdaAnswersSlotWithTwoBytes := by
  refine fun idx s hf hu hroom => ⟨fun b code => decodeRequest_of_toNat_analog code, ?_⟩
  rw [exec_rda hf, sendReply_of_room hu hroom, analogReply_eq]

/-- Settles O21: the same for a discrete reply, with the switcher bit shown before. -/
theorem rddAnswersGroupWithComplement : Obligations.RddAnswersGroupWithComplement := by
  refine fun g sw s hf hu hroom => ⟨fun b code => decodeRequest_of_toNat_discrete code, ?_⟩
  rw [exec_rdd hf, sendReply_of_room (s := showSwitch s sw) hu hroom, discreteReply_eq]
  rfl

/-! ### Replies the transport has limited room for -/

/-- With room for every byte of it, a reply goes out whole and uses its length of the room up. -/
theorem sendReply_of_enough_room {s : State} {k : Nat} (hu : s.unsent = []) (hroom : s.txRoom = some k)
    (bytes : List Byte) (enough : bytes.length ≤ k) :
    sendReply s bytes = { s with
      tx := s.tx ++ bytes, phase := .waitByte, req := none, txRoom := some (k - bytes.length) } := by
  rw [sendReply, handOver_of_limited_room (s := { s with unsent := s.unsent ++ bytes }) hroom]
  simp [hu, enough, List.take_of_length_le enough]

/-- With less room than that, the first bytes use up all of it and the rest stays unsent in Dispatch. -/
theorem sendReply_of_little_room {s : State} {k : Nat} (hu : s.unsent = []) (hroom : s.txRoom = some k)
    (bytes : List Byte) (little : k < bytes.length) :
    sendReply s bytes = { s with
      tx := s.tx ++ bytes.take k, unsent := bytes.drop k, phase := .dispatch, txRoom := some 0 } := by
  rw [sendReply, handOver_of_limited_room (s := { s with unsent := s.unsent ++ bytes }) hroom]
  simp [hu, little.not_ge, little.le]

/-- Settles O23: an analog reply has two bytes and a discrete one has one. -/
theorem replyWaitsForTransport : Obligations.ReplyWaitsForTransport := by
  refine fun idx g sw k s hf hu hroom => ⟨fun little => ?_, fun enough => ?_, fun full => ?_, fun enough => ?_⟩
  · rw [exec_rda hf, sendReply_of_little_room hu hroom (analogReply _) little]
  · rw [exec_rda hf, sendReply_of_enough_room hu hroom (analogReply _) enough]
    rfl
  · subst full
    rw [exec_rdd hf, sendReply_of_little_room (s := showSwitch s sw) hu hroom (discreteReply _) Nat.one_pos]
    simp [showSwitch, hroom]
  · rw [exec_rdd hf, sendReply_of_enough_room (s := showSwitch s sw) hu hroom (discreteReply _) enough]
    rfl

/-! ### The wire fault -/

/-- The illegal requests are the bytes 0x30..0x3F and 0x70..0x7F (30_encoding.md R57). -/
theorem decode_request_eq_rddInvalid_iff (b : Byte) :
    (∃ g sw, decode (.request b) = .rddInvalid g sw) ↔ 0x30 ≤ b.toNat % 64 ∧ b.toNat < 128 := by
  have fields := requestDecoderMap b
  rw [decode]
  cases target : decodeRequest b with
  | analog idx =>
    rw [target] at fields
    obtain ⟨class1, -⟩ := fields
    simp only [Target.toInstr, reduceCtorEq, exists_false, false_iff]
    omega
  | discrete g sw =>
    rw [target] at fields
    obtain ⟨-, group, -⟩ := fields
    simp only [Target.toInstr, reduceCtorEq, exists_false, false_iff]
    omega
  | invalid g sw =>
    rw [target] at fields
    obtain ⟨class0, outside, -⟩ := fields
    exact ⟨fun _ => ⟨outside, class0⟩, fun _ => ⟨g, sw, rfl⟩⟩

/-- Settles O22: the code of the cause is 3, and nothing is read or sent. -/
theorem invalidRequestTakesWireFault : Obligations.InvalidRequestTakesWireFault :=
  ⟨decode_request_eq_rddInvalid_iff, fun _ _ _ hf => admitted_of_unfaulted hf _⟩

end Sys2Proof.Machine
end

section
/-! PROOFS. Transactions: two steps of the quiet wire side perform `poll` (42_responder.md R115), and the transmit
stream of every run without a reset is the replies in request order (R116). -/

namespace Sys2Proof.Machine

/-! ### Runs in parts -/

theorem core_run_one (M : Host.Core) (s : M.State) : M.run 1 s = M.step s := by
  rw [core_run_succ]
  cases M.step s <;> rfl

/-- A run of `m + n` steps is a run of `m` steps and a run of `n` from where that ends. -/
theorem core_run_add_eq_next {M : Host.Core} {m n : Nat} {s t : M.State} :
    M.run (m + n) s = .next t ↔ ∃ u, M.run m s = .next u ∧ M.run n u = .next t := by
  induction m generalizing s with
  | zero => simp [Host.Core.run]
  | succ m ih =>
    rw [Nat.add_right_comm, core_run_succ, core_run_succ]
    cases M.step s with
    | next u => exact ih
    | fault r => simp
    | refused r => simp

/-- The last step of a run of this machine. -/
theorem run_succ_eq_next {n : Nat} {s t : State} :
    Sys2Proof.core.run (n + 1) s = .next t ↔ ∃ u : State, Sys2Proof.core.run n s = .next u ∧ step u = .next t := by
  refine core_run_add_eq_next.trans (exists_congr fun u => and_congr_right fun _ => ?_)
  rw [core_run_one]
  rfl

/-! ### A transaction of the quiet wire side -/

theorem poll_of_legal {b : Byte} (h : illegalRequest b = false) (A : Vector Slot 128) (D : Vector Byte 48) :
    poll b A D = .reply (replyTo b A D) := by
  rcases decodeRequest_of_legal h with ⟨idx, hb⟩ | ⟨g, sw, hb⟩
  · rw [replyTo_of_analog hb, poll, hb]
  · rw [replyTo_of_discrete hb, poll, hb]

theorem poll_of_illegal {b : Byte} (h : illegalRequest b = true) (A : Vector Slot 128) (D : Vector Byte 48) :
    poll b A D = .fault .discreteGroupRange := by
  obtain ⟨g, sw, hb⟩ := decodeRequest_of_illegal h
  rw [poll, hb]

/-- One step takes the oldest byte and the next one runs it (42_responder.md R111, R112). -/
theorem run_two_of_quiet {s t : State} {b : Byte} {rest : List Byte} (quiet : s.WireQuiet) (oldest : s.rx = b :: rest)
    (run : exec (decodeRequest b).toInstr (acceptByte s b rest) = .next t) : Sys2Proof.core.run 2 s = .next t := by
  have first := step_of_byte quiet.noReset quiet.noFault quiet.waiting oldest quiet.noCommand
  have second := step_of_held (s := acceptByte s b rest) quiet.noReset quiet.noFault rfl quiet.nothingUnsent rfl
    quiet.noCommand
  exact (run_succ_of_next first 1).trans (run_succ_of_next (second.trans run) 0)

theorem run_two_of_legal {s : State} {b : Byte} {rest : List Byte} (quiet : s.WireQuiet) (oldest : s.rx = b :: rest)
    (legal : illegalRequest b = false) :
    ∃ sw, Sys2Proof.core.run 2 s = .next { s with rx := rest, tx := s.tx ++ replyTo b s.A s.D, swObs := sw } := by
  obtain ⟨sw, run⟩ := exec_legalRequest legal (acceptByte s b rest)
  have admission := run.trans (admitted_of_unfaulted quiet.noFault _)
  rw [sendReply_of_room (s := showSwitch (acceptByte s b rest) sw) quiet.nothingUnsent quiet.roomForAll] at admission
  refine ⟨sw, (run_two_of_quiet quiet oldest admission).trans ?_⟩
  simp [showSwitch, acceptByte, quiet.waiting, quiet.noRequest]

theorem run_two_of_illegal {s : State} {b : Byte} {rest : List Byte} (quiet : s.WireQuiet) (oldest : s.rx = b :: rest)
    (illegal : illegalRequest b = true) :
    Sys2Proof.core.run 2 s =
      .next { s with rx := rest, phase := .dispatch, req := some b, fault := true, fcause := 3#2 } :=
  run_two_of_quiet quiet oldest ((exec_illegalRequest illegal _).trans (admitted_of_unfaulted quiet.noFault _))

/-- Settles O52: `poll` answers a reply exactly where the request is legal. -/
theorem transactionIsPoll : Obligations.TransactionIsPoll := by
  intro s b rest quiet oldest
  cases h : illegalRequest b with
  | false =>
    rw [poll_of_legal h]
    exact run_two_of_legal quiet oldest h
  | true =>
    rw [poll_of_illegal h]
    exact ⟨rfl, run_two_of_illegal quiet oldest h⟩

/-- Settles O53, by induction on the requests: after a transaction the wire side is quiet again, over the same
tables. -/
theorem transmitStreamIsConcatenationOfReplies : Obligations.TransmitStreamIsConcatenationOfReplies := by
  intro bs
  induction bs with
  | nil =>
    intro s _ hx _
    refine ⟨s.swObs, congrArg Host.Outcome.next ?_⟩
    rw [List.flatMap_nil, List.append_nil, ← hx]
  | cons b rest ih =>
    intro s quiet hx legal
    obtain ⟨legalOldest, legalRest⟩ := List.forall_mem_cons.mp legal
    obtain ⟨sw, first⟩ := run_two_of_legal quiet hx legalOldest
    have quiet' : State.WireQuiet { s with rx := rest, tx := s.tx ++ replyTo b s.A s.D, swObs := sw } :=
      ⟨quiet.noReset, quiet.noFault, quiet.waiting, quiet.noRequest, quiet.nothingUnsent, quiet.noCommand,
        quiet.roomForAll⟩
    obtain ⟨sw', others⟩ := ih _ quiet' rfl legalRest
    have steps : 2 * (b :: rest).length = 2 + 2 * rest.length := by rw [List.length_cons]; omega
    refine ⟨sw', ?_⟩
    rw [steps, List.flatMap_cons, ← List.append_assoc]
    exact core_run_add_eq_next.mpr ⟨_, first, others⟩

/-! ### The requests that wait, move by move -/

theorem requestHeld_of_waiting {s : State} (h : s.phase = .waitByte) : s.requestHeld = [] := by
  simp [State.requestHeld, h]

theorem requestHeld_of_unsent {s : State} (h : s.unsent ≠ []) : s.requestHeld = [] := by
  simp [State.requestHeld, h]

theorem requestHeld_of_faulted {s : State} (h : s.fault = true) : s.requestHeld = [] := by
  simp [State.requestHeld, h]

theorem requestHeld_of_held {s : State} {b : Byte} (hd : s.phase = .dispatch) (hu : s.unsent = [])
    (hf : s.fault = false) (hq : s.req = some b) : s.requestHeld = [b] := by
  simp [State.requestHeld, hd, hu, hf, hq]

/-- After handing over, the transaction is over or has bytes unsent, so its request is no more to be run. -/
theorem handOver_requestHeld (s : State) : (handOver s).requestHeld = [] := by
  by_cases done : (handOver s).unsent = []
  · exact requestHeld_of_waiting (handOver_done done).1
  · exact requestHeld_of_unsent done

/-- A move runs no request and leaves the stream as it is, or runs the request held and adds its reply to the stream. -/
theorem Move.requests {s t : State} (h : Move s t) (inv : s.Inv) (hf : s.fault = false) :
    (t.requestsWaiting = s.requestsWaiting ∧ t.tx ++ t.unsent = s.tx ++ s.unsent) ∨
    (∃ b, s.phase = .dispatch ∧ s.unsent = [] ∧ s.req = some b ∧
      s.requestsWaiting = b :: t.requestsWaiting ∧
      t.tx ++ t.unsent = s.tx ++ s.unsent ++ replyTo b s.A s.D ∧ t.A = s.A ∧ t.D = s.D) := by
  cases h with
  | wait => exact .inl ⟨rfl, rfl⟩
  | @accept b rest waiting oldest =>
    obtain ⟨-, hu⟩ := inv.waiting waiting
    have before : s.requestHeld = [] := requestHeld_of_waiting waiting
    have after : (acceptByte s b rest).requestHeld = [b] := requestHeld_of_held rfl hu hf rfl
    refine .inl ⟨?_, rfl⟩
    simp [State.requestsWaiting, before, after, oldest]
  | @fault b dispatching fresh held illegal =>
    obtain ⟨g, sw, target⟩ := decodeRequest_of_illegal illegal
    have before : s.requestHeld = [b] := requestHeld_of_held dispatching fresh hf held
    have after : (raiseWireFault s .discreteGroupRange).requestHeld = [] := requestHeld_of_faulted rfl
    refine .inr ⟨b, dispatching, fresh, held, ?_, ?_, rfl, rfl⟩
    · simp [State.requestsWaiting, before, after]
    · rw [replyTo_of_invalid target, List.append_nil]
      rfl
  | @reply b sw dispatching fresh held legal =>
    have before : s.requestHeld = [b] := requestHeld_of_held dispatching fresh hf held
    have after : (sendReply (showSwitch s sw) (replyTo b s.A s.D)).requestHeld = [] := handOver_requestHeld _
    refine .inr ⟨b, dispatching, fresh, held, ?_, sendReply_stream (showSwitch s sw) _, rfl, rfl⟩
    simp [State.requestsWaiting, before, after]
  | send dispatching begun =>
    have before : s.requestHeld = [] := requestHeld_of_unsent begun
    refine .inl ⟨?_, handOver_stream s⟩
    simp [State.requestsWaiting, before, handOver_requestHeld]
  | command => exact .inl ⟨rfl, rfl⟩

/-- Settles O56: the schedule's counter, up to which a step is a move, bears on none of the fields named. -/
theorem stepAddsReplyOfOldestRequest : Obligations.StepAddsReplyOfOldestRequest := by
  intro s t inv hr h
  obtain ⟨hf, n, move⟩ := move_of_step h hr
  exact move.requests (inv.of_same_transaction rfl rfl rfl rfl rfl) hf

/-! ### The requests served in a run -/

/-- In the run of `n` steps from `s` to `t` exactly the requests `served` are run: each stands with the state it is run
in and the number of steps before that. -/
structure ServedInOrder (n : Nat) (s t : State) (served : List (Nat × State)) : Prop where
  ordered : (served.map Prod.fst).Pairwise (· < ·)
  held : ∀ p ∈ served, p.1 < n ∧ Sys2Proof.core.run p.1 s = .next p.2 ∧
    p.2.phase = .dispatch ∧ p.2.unsent = [] ∧ p.2.req ≠ none
  requests : s.requestsWaiting = served.flatMap (fun p => p.2.req.toList) ++ t.requestsWaiting
  stream : t.tx ++ t.unsent = s.tx ++ s.unsent ++ served.flatMap fun p => p.2.heldReply

theorem ServedInOrder.refl (s : State) : ServedInOrder 0 s s [] where
  ordered := .nil
  held := by simp
  requests := rfl
  stream := by simp

/-- One more step, which runs no request. -/
theorem ServedInOrder.idle {n : Nat} {s u t : State} {served : List (Nat × State)} (h : ServedInOrder n s u served)
    (requests : t.requestsWaiting = u.requestsWaiting) (stream : t.tx ++ t.unsent = u.tx ++ u.unsent) :
    ServedInOrder (n + 1) s t served where
  ordered := h.ordered
  held p hp :=
    have ⟨before, rest⟩ := h.held p hp
    ⟨by omega, rest⟩
  requests := requests ▸ h.requests
  stream := stream ▸ h.stream

/-- One more step, which runs the request held. -/
theorem ServedInOrder.serve {n : Nat} {s u t : State} {b : Byte} {served : List (Nat × State)}
    (h : ServedInOrder n s u served) (run : Sys2Proof.core.run n s = .next u) (dispatching : u.phase = .dispatch)
    (fresh : u.unsent = []) (held : u.req = some b) (requests : u.requestsWaiting = b :: t.requestsWaiting)
    (stream : t.tx ++ t.unsent = u.tx ++ u.unsent ++ replyTo b u.A u.D) :
    ServedInOrder (n + 1) s t (served ++ [(n, u)]) where
  ordered := by
    rw [List.map_append, List.map_singleton, List.pairwise_append]
    refine ⟨h.ordered, List.pairwise_singleton _ _, fun i hi j hj => ?_⟩
    obtain ⟨p, hp, rfl⟩ := List.mem_map.mp hi
    obtain ⟨before, -⟩ := h.held p hp
    rwa [List.mem_singleton.mp hj]
  held p hp := by
    rcases List.mem_append.mp hp with earlier | last
    · obtain ⟨before, rest⟩ := h.held p earlier
      exact ⟨by omega, rest⟩
    · obtain rfl := List.mem_singleton.mp last
      exact ⟨n.lt_succ_self, run, dispatching, fresh, by simp [held]⟩
  requests := by
    rw [h.requests, requests]
    simp [held]
  stream := by
    rw [stream, h.stream]
    simp [State.heldReply, held]

/-- A run without a reset keeps the invariant, and the requests it serves are found step by step. -/
theorem exists_servedInOrder {n : Nat} {s t : State} (inv : s.Inv) (hr : s.resetReq = false)
    (h : Sys2Proof.core.run n s = .next t) :
    t.Inv ∧ t.resetReq = false ∧ ∃ served, ServedInOrder n s t served := by
  induction n generalizing t with
  | zero =>
    cases h
    exact ⟨inv, hr, [], .refl s⟩
  | succ n ih =>
    obtain ⟨u, before, last⟩ := run_succ_eq_next.mp h
    obtain ⟨invU, noReset, served, hserved⟩ := ih before
    obtain ⟨-, turn, move⟩ := move_of_step last noReset
    refine ⟨stepKeepsInvariant u t invU last, move.resetReq.trans noReset, ?_⟩
    rcases stepAddsReplyOfOldestRequest u t invU noReset last with
      ⟨requests, stream⟩ | ⟨b, dispatching, fresh, held, requests, stream, -⟩
    · exact ⟨_, hserved.idle requests stream⟩
    · exact ⟨_, hserved.serve before dispatching fresh held requests stream⟩

/-- Settles O57: `ServedInOrder` of the requests found by `exists_servedInOrder`. -/
theorem runTransmitsRepliesInRequestOrder : Obligations.RunTransmitsRepliesInRequestOrder := by
  intro n s t inv hr h
  obtain ⟨-, -, served, hserved⟩ := exists_servedInOrder inv hr h
  exact ⟨served, hserved.ordered, hserved.held, hserved.requests, hserved.stream⟩

end Sys2Proof.Machine
end

section
/-! PROOFS. The outputs and the handshakes of the signal binding (50_interfaces.md R134, R135, R139), and the invariant
along every run (R130, R141). -/

namespace Sys2Proof.Machine

/-! ### The output `sw_obs` -/

/-- The operation of a request leaves `sw_obs`, or shows its own switcher bit there (50_interfaces.md R139). -/
theorem exec_request_swObs {b : Byte} {s t : State} (h : exec (decodeRequest b).toInstr s = .next t) :
    t.swObs = s.swObs ∨ ∃ g, decodeRequest b = .discrete g t.swObs := by
  generalize decodeRequest b = target at h ⊢
  cases target with
  | analog | invalid =>
    obtain ⟨-, rfl⟩ := admitted_eq_next.mp h
    exact .inl rfl
  | discrete g sw =>
    obtain ⟨-, rfl⟩ := admitted_eq_next.mp h
    exact .inr ⟨g, rfl⟩

/-- Settles O46: of the cases of a step other than reset, only a held request that runs can touch `sw_obs`. -/
theorem switchOutputFollowsDiscreteRequests : Obligations.SwitchOutputFollowsDiscreteRequests := by
  intro s t h
  rcases step_next_cases h with ⟨reset, rfl⟩ | ⟨noReset, -, rfl | ⟨s', hs', move⟩⟩
  · exact ⟨fun _ => rfl, fun noReset => by simp [noReset] at reset⟩
  · exact ⟨fun reset => by simp [noReset] at reset, fun _ => .inl rfl⟩
  obtain ⟨n, rfl⟩ := eq_withTurn_of_serialised hs'
  refine ⟨fun reset => by simp [noReset] at reset, fun _ => ?_⟩
  rcases move with ⟨b, rest, -, -, rfl⟩ | ⟨b, -, -, held, run⟩ | ⟨-, -, -, rfl⟩ | ⟨w, rest, -, run⟩
  · exact .inl rfl
  · rcases exec_request_swObs run with same | ⟨g, target⟩
    · exact .inl same
    · exact .inr ⟨b, g, held, target⟩
  · exact .inl rfl
  · obtain ⟨-, A, D, r, rfl⟩ := exec_port_shape (decodeCommand_side w) run
    exact .inl rfl

/-! ### The handshakes -/

theorem rxReady_eq_true {s : State} : rxReady s = true ↔ s.phase = .waitByte ∧ s.fault = false := by
  simp [rxReady]

theorem pReady_eq_true {s : State} : pReady s = true ↔ s.fault = false := by
  simp [pReady]

/-- A byte is offered only as the first of those unsent (50_interfaces.md R134). -/
theorem unsent_of_txData {s : State} {x : Byte} (h : txData s = some x) : ∃ xs, s.unsent = x :: xs := by
  rw [txData] at h
  split at h
  case isTrue => exact List.head?_eq_some_iff.mp h
  case isFalse => cases h

/-- With a reply begun a move adds nothing to the transmit stream, or hands over bytes from the first one unsent on. -/
theorem Move.tx_of_unsent {s t : State} {x : Byte} {xs : List Byte} (h : Move s t) (hu : s.unsent = x :: xs) :
    t.tx = s.tx ∨ ∃ more, t.tx = s.tx ++ x :: more := by
  cases h with
  | wait | accept | fault | command => exact .inl rfl
  | reply sw dispatching fresh => simp [hu] at fresh
  | send =>
    rw [handOver_tx, hu]
    cases taken s.txRoom (x :: xs).length with
    | zero => exact .inl (List.append_nil _)
    | succ n => exact .inr ⟨xs.take n, rfl⟩

/-- Settles O47: a reset takes neither bytes nor commands, and every other step is a move from FAULT = 0. -/
theorem handshakesGuardTheStep : Obligations.HandshakesGuardTheStep := by
  intro s t h
  rcases step_reset_or_move h with ⟨reset, rfl⟩ | ⟨-, hf, n, move⟩
  · exact ⟨fun taken => absurd rfl taken, fun taken => absurd rfl taken,
      fun _ _ noReset => by simp [noReset] at reset⟩
  · refine ⟨fun taken => ?_, fun _ => pReady_eq_true.mpr hf, fun x offered _ => ?_⟩
    · rcases move.rx with same | ⟨waiting, -⟩
      · exact absurd same taken
      · exact rxReady_eq_true.mpr ⟨waiting, hf⟩
    · obtain ⟨xs, hu⟩ := unsent_of_txData offered
      exact move.tx_of_unsent hu

/-! ### Runs -/

/-- Settles O50, by induction on the run: what the environment does leaves the transaction in progress alone. -/
theorem reachableStatesHaveInvariant : Obligations.ReachableStatesHaveInvariant := by
  intro s run
  induction run with
  | reset => exact invariantAtReset
  | deliver _ b ih => exact ih.of_same_transaction rfl rfl rfl rfl rfl
  | command _ w ih => exact ih.of_same_transaction rfl rfl rfl rfl rfl
  | askReset _ ih => exact ih.of_same_transaction rfl rfl rfl rfl rfl
  | setTxRoom _ room ih => exact ih.of_same_transaction rfl rfl rfl rfl rfl
  | step _ hs ih => exact stepKeepsInvariant _ _ ih hs

end Sys2Proof.Machine
end

section
/-! PROOFS. Waiting commands while nothing happens on the wire: each is answered in one step (50_interfaces.md R135), and
those of an initialization load leave the last value issued for each address (R136, R137). -/

namespace Sys2Proof.Machine

/-! ### Commands -/

/-- Settles O54, by induction on the commands: each step runs the oldest one, a port operation, which delivers one
result and keeps the block waiting for a byte. -/
theorem everyCommandIsAnswered : Obligations.EveryCommandIsAnswered := by
  intro ws
  induction ws with
  | nil =>
    intro s _ hf hw _ hp
    exact ⟨s, [], rfl, hp, (List.append_nil _).symm, rfl, rfl, hw, hf⟩
  | cons w rest ih =>
    intro s hr hf hw hx hp
    have first := stepRunsOldestCommand s w rest hr hf hp (.inl ⟨hw, hx⟩)
    obtain ⟨u, run⟩ := exec_next_of_unfaulted (decode (.command w)) (s := { s with port := rest }) hf
    obtain ⟨-, A, D, r, rfl⟩ := exec_port_shape (decodeCommand_side w) run
    obtain ⟨t, rs, others, drained, results, count, tx, waiting, noFault⟩ :=
      ih { s with A := A, D := D, results := s.results ++ [r], port := rest } hr hf hw hx rfl
    refine ⟨t, r :: rs, (run_succ_of_next (first.trans run) _).trans others, drained, ?_, ?_, tx, waiting, noFault⟩
    · rw [results, List.append_assoc, List.singleton_append]
    · rw [List.length_cons, List.length_cons, count]

/-! ### Records: what is issued, and what its `SETA` does -/

/-- The record's operands fit the port (50_interfaces.md R135; 00_scope.md R8). -/
def LoadRecord.fitsPort (r : LoadRecord) : Bool :=
  decide (-32768 ≤ r.address ∧ r.address < 32768 ∧ 0 ≤ r.value ∧ r.value < 65536)

/-- The word of the record's `SETA` (30_encoding.md R63). -/
def LoadRecord.word (r : LoadRecord) : Command := commandWord 0#2 r.address (BitVec.ofNat 16 r.value.toNat)

/-- The analog table after the record's `SETA` (40_store_ops.md R70). -/
def LoadRecord.storeIn (A : Vector Slot 128) (r : LoadRecord) : Vector Slot 128 :=
  match externalSlot r.address with
  | some i => A.set i.val (maskAnalog r.value.toNat)
  | none => A

/-- The result of the record's `SETA` (40_store_ops.md R70). -/
def LoadRecord.result (r : LoadRecord) : PortResult :=
  if 1 ≤ r.address ∧ r.address ≤ 128 then .ok else .err .analogAddressRange

theorem LoadRecord.value_nonneg {r : LoadRecord} (fits : r.fitsPort = true) : 0 ≤ r.value := by
  obtain ⟨-, -, nonneg, -⟩ := of_decide_eq_true fits
  exact nonneg

theorem LoadRecord.command?_eq_word (r : LoadRecord) : r.command? = if r.fitsPort then some r.word else none := by
  rw [r.command?_eq]
  exact if_congr decide_eq_true_iff.symm rfl rfl

/-- The loader issues the words of the records that fit, in file order. -/
theorem filterMap_command?_eq_map_word (records : List LoadRecord) :
    records.filterMap LoadRecord.command? = (records.filter LoadRecord.fitsPort).map LoadRecord.word := by
  rw [← List.filterMap_eq_map, List.filterMap_filter]
  exact congrArg (List.filterMap · records) (funext LoadRecord.command?_eq_word)

/-- The word of a record that fits the port carries both its integers. -/
theorem decode_word {r : LoadRecord} (fits : r.fitsPort = true) :
    decode (.command r.word) = .seta r.address r.value.toNat := by
  obtain ⟨lower, upper, nonneg, small⟩ := of_decide_eq_true fits
  have wf : (Instr.seta r.address r.value.toNat).wellFormed = true := by
    refine Bool.and_eq_true_iff.mpr ⟨Bool.and_eq_true_iff.mpr ⟨decide_eq_true lower, decide_eq_true upper⟩, ?_⟩
    exact decide_eq_true ((Int.toNat_lt nonneg).mpr small)
  exact decodeOfEncodeIsTheInstruction _ wf

theorem exec_seta_of_record {s : State} (hf : s.fault = false) (r : LoadRecord) :
    exec (.seta r.address r.value.toNat) s =
      .next { s with A := r.storeIn s.A, results := s.results ++ [r.result] } := by
  cases slot : externalSlot r.address with
  | some i =>
    have named := externalSlot_eq_some.mp slot
    rw [exec_seta_of_slot hf named, LoadRecord.storeIn, LoadRecord.result, slot, if_pos (by omega)]
    rfl
  | none =>
    have out := externalSlot_eq_none.mp slot
    rw [exec_seta_out_of_range hf out, LoadRecord.storeIn, LoadRecord.result, slot, if_neg (by omega)]
    rfl

/-! ### The run of a load -/

theorem step_of_record {r : LoadRecord} {s : State} {rest : List Command} (fits : r.fitsPort = true)
    (hr : s.resetReq = false) (hf : s.fault = false) (hw : s.phase = .waitByte) (hx : s.rx = [])
    (hp : s.port = r.word :: rest) :
    step s = .next { s with A := r.storeIn s.A, results := s.results ++ [r.result], port := rest } := by
  rw [stepRunsOldestCommand s r.word rest hr hf hp (.inl ⟨hw, hx⟩), decode_word fits]
  exact exec_seta_of_record (s := takeCommand s rest) hf r

/-- One step for each record issued, in file order, whether the port takes it or refuses it. -/
theorem run_issued {issued : List LoadRecord} {s : State} (fits : ∀ r ∈ issued, r.fitsPort = true)
    (hr : s.resetReq = false) (hf : s.fault = false) (hw : s.phase = .waitByte) (hx : s.rx = [])
    (hp : s.port = issued.map LoadRecord.word) :
    Sys2Proof.core.run issued.length s =
      .next { s with
        A := issued.foldl LoadRecord.storeIn s.A
        results := s.results ++ issued.map LoadRecord.result
        port := [] } := by
  induction issued generalizing s with
  | nil =>
    refine congrArg Host.Outcome.next ?_
    rw [List.map_nil, List.append_nil, List.foldl_nil, ← show s.port = [] from hp]
  | cons r rest ih =>
    obtain ⟨fitsFirst, fitsRest⟩ := List.forall_mem_cons.mp fits
    have first := step_of_record fitsFirst hr hf hw hx hp
    have others := ih fitsRest (s := { s with
      A := r.storeIn s.A
      results := s.results ++ [r.result]
      port := rest.map LoadRecord.word }) hr hf hw hx rfl
    refine (run_succ_of_next first _).trans (others.trans ?_)
    rw [List.map_cons, List.foldl_cons, List.append_assoc, List.singleton_append]

/-! ### The slots after a load -/

/-- A record changes the slot of its external address, to its value's low 10 bits, and no other. -/
theorem storeIn_toNat {r : LoadRecord} (fits : r.fitsPort = true) (A : Vector Slot 128) (i : Fin 128) :
    ((r.storeIn A)[i.val].toNat : Int) = if r.address = i.val + 1 then r.value % 1024 else A[i.val].toNat := by
  have value : ((maskAnalog r.value.toNat).toNat : Int) = r.value % 1024 := by
    have nonneg := LoadRecord.value_nonneg fits
    rw [maskAnalog_toNat]
    omega
  rw [LoadRecord.storeIn]
  cases slot : externalSlot r.address with
  | some k =>
    have named := externalSlot_eq_some.mp slot
    by_cases same : k.val = i.val
    · rw [if_pos (by omega)]
      simp [same, value]
    · rw [if_neg (by omega)]
      simp [same]
  | none =>
    have out := externalSlot_eq_none.mp slot
    rw [if_neg (by omega)]

/-- By induction from the last record backwards: the last one that names a slot decides what it holds. -/
theorem foldl_storeIn_toNat {issued : List LoadRecord} (fits : ∀ r ∈ issued, r.fitsPort = true) (A : Vector Slot 128)
    (i : Fin 128) :
    ((issued.foldl LoadRecord.storeIn A)[i.val].toNat : Int) =
      (issued.filter fun r => decide (r.address = (i.val + 1 : Int))).getLast?.elim (A[i.val].toNat : Int)
        (·.value % 1024) := by
  induction issued using List.reverseRecOn with
  | nil => rfl
  | append_singleton before last ih =>
    have fitsLast : last.fitsPort = true := fits last (by simp)
    have earlier := ih fun r mem => fits r (List.mem_append_left _ mem)
    rw [List.foldl_append, List.foldl_cons, List.foldl_nil, storeIn_toNat fitsLast, List.filter_append]
    by_cases named : last.address = i.val + 1
    · simp [named]
    · simpa [named] using earlier

/-- Settles O55: `run_issued` is the run of the load, and `foldl_storeIn_toNat` gives every slot after it. -/
theorem loadLeavesLastValueOfEachAddress : Obligations.LoadLeavesLastValueOfEachAddress := by
  intro records issued s hissued hr hf hw hx hp
  have fits : ∀ r ∈ issued, r.fitsPort = true := fun r mem => (List.mem_filter.mp (hissued ▸ mem)).2
  have words : (s.load records).port = issued.map LoadRecord.word := by
    rw [State.load_port, hp, List.nil_append, filterMap_command?_eq_map_word, hissued]
    rfl
  refine ⟨_, run_issued fits hr hf hw hx words, ?_, fun i => ?_⟩
  · rw [← hp]
    rfl
  · refine (foldl_storeIn_toNat fits s.A i).trans ?_
    cases (issued.filter fun r => decide (r.address = (i.val + 1 : Int))).getLast? <;> rfl

end Sys2Proof.Machine
end

section
/-! PROOFS. The error mechanisms (60_exceptions.md): the frame of the port operations (R159), the port error (R152), and
the step while FAULT = 1 or a reset is pending (R154, R170). -/

namespace Sys2Proof.Machine

/-! ### The port error -/

/-- Settles O15: a port operation delivers one result over the tables. -/
theorem portOperationsOnlyTouchTablesAndResults : Obligations.PortOperationsOnlyTouchTablesAndResults := by
  intro i s t hi h
  obtain ⟨-, A, D, r, rfl⟩ := exec_port_shape hi h
  exact ⟨r, rfl⟩

/-- The cause with which the port refuses an operation (60_exceptions.md R151). No wire operation is asked of the port;
a wire operation that is refused takes the wire fault with the last of these causes. -/
def portErrorCause : Instr → Cause
  | .seta _ _ => .analogAddressRange
  | .geta _ => .analogAddressRange
  | .setdb _ _ => .discreteBitAddressRange
  | _ => .discreteGroupRange

/-- Each port operation has one error result, where its operand names no unit of the store. -/
theorem exec_port_refused_cause {i : Instr} {c : Cause} {s t : State} (hi : i.side = .port) (h : exec i s = .next t)
    (refused : t.results = s.results ++ [.err c]) : c = portErrorCause i := by
  cases i with
  | rda | rddInvalid | rdd => cases hi
  | seta | geta | setdb | getdg =>
    obtain ⟨-, rfl⟩ := admitted_eq_next.mp h
    split at refused
    · simp at refused
    · simpa [portErrorCause] using refused.symm

/-- An operation whose result is an error has taken a port error (60_exceptions.md R152). -/
theorem exec_port_refused {i : Instr} {c : Cause} {s t : State} (hi : i.side = .port) (h : exec i s = .next t)
    (refused : t.results = s.results ++ [.err c]) : t = raisePortError s c := by
  obtain ⟨-, A, D, r, rfl⟩ := exec_port_shape hi h
  obtain ⟨rfl, rfl⟩ := exec_port_refused_tables hi h refused
  obtain rfl : r = .err c := by simpa using refused
  rfl

/-- Settles O19: the state after is that of the port error, where FAULT is still 0 and so every operation is admitted. -/
theorem portErrorChangesNothing : Obligations.PortErrorChangesNothing := by
  intro i s t c hi h refused
  refine ⟨exec_port_refused hi h refused, rfl, ?_, fun j => exec_next_of_unfaulted j (exec_port_unfaulted hi h)⟩
  rw [exec_port_refused_cause hi h refused]
  cases i <;> rfl

/-! ### The stop over a standing FAULT, and reset -/

/-- Reset wins over everything (60_exceptions.md R158). -/
theorem step_of_resetReq {s : State} (hr : s.resetReq = true) : step s = .next (resetEvent s) :=
  step_of_move (if_pos hr)

theorem step_of_faulted {s : State} (hr : s.resetReq = false) (hf : s.fault = true) :
    step s = .fault .blockFaulted := by
  rw [step, nextAction, if_neg (by simp [hr]), if_pos hf]

/-- Settles O36: FAULT = 1 stops the step, and only a pending reset is looked at before it. -/
theorem faultedBlockHasNoStepButReset : Obligations.FaultedBlockHasNoStepButReset := fun s hf =>
  ⟨fun hr => step_of_faulted hr hf, fun hr => ⟨resetEvent s, step_of_resetReq hr, rfl, rfl⟩⟩

/-- Settles O41: the next state of a reset is `resetEvent`. -/
theorem resetLeavesInputsWithSenders : Obligations.ResetLeavesInputsWithSenders := by
  intro s t hr h
  rw [step_of_resetReq hr] at h
  cases h
  rfl

end Sys2Proof.Machine
end

section
/-! PROOFS. Reset and hazards (70_reset_and_hazards.md): the discrete inversion between port and wire (R175), waiting
(R180; 42_responder.md R120) and the reset event (R170). -/

namespace Sys2Proof.Machine

/-! ### `SETDB`, then `RDD` -/

/-- A port operation leaves the transmit side alone (60_exceptions.md R159). -/
theorem exec_port_transmit_side {i : Instr} {s t : State} (hi : i.side = .port) (h : exec i s = .next t) :
    t.unsent = s.unsent ∧ t.txRoom = s.txRoom ∧ t.tx = s.tx := by
  obtain ⟨-, A, D, r, rfl⟩ := exec_port_shape hi h
  exact ⟨rfl, rfl, rfl⟩

/-- With room for it, a discrete request transmits the complement of its group (42_responder.md R113). -/
theorem exec_rdd_tx {g : Fin 48} {sw : Bool} {s t : State} (hu : s.unsent = []) (hroom : s.txRoom = none)
    (h : exec (.rdd g sw) s = .next t) : t.tx = s.tx ++ [encodeDiscrete (readGroup s g)] := by
  obtain ⟨-, rfl⟩ := admitted_eq_next.mp h
  rw [sendReply_of_room (s := showSwitch s sw) hu hroom, showSwitch_tx, discreteReply]

/-- Within the group that its address names, `SETDB` writes the bit at the position named (40_store_ops.md R73). -/
theorem ownGroup_after_setdb {b : Int} (h : 1 ≤ b ∧ b ≤ 384) {on : Bool} {s t : State}
    (ht : exec (.setdb b on) s = .next t) (pos : Fin 8) :
    (readGroup t (addressToSlot b h).1).getLsbD pos.val =
      if pos = (addressToSlot b h).2 then on else (readGroup s (addressToSlot b h).1).getLsbD pos.val := by
  have named : bitSlot b = some ((addressToSlot b h).1, pos) ↔ pos = (addressToSlot b h).2 := by
    simp [bitSlot_eq_some.mpr ⟨h, rfl⟩, Prod.ext_iff, eq_comm]
  rw [exec_setdb_getLsbD ht]
  exact if_congr named rfl rfl

/-- Settles O27: the byte transmitted is the complement of the group as `SETDB` left it, bit by bit. -/
theorem setdbIsPolledInverted : Obligations.SetdbIsPolledInverted := by
  intro b h on sw s t u _ hu hroom ht hpoll
  obtain ⟨sameUnsent, sameRoom, sameTx⟩ := exec_port_transmit_side (i := .setdb b on) rfl ht
  refine ⟨encodeDiscrete (readGroup t (addressToSlot b h).1), ?_, fun pos => ?_⟩
  · rw [exec_rdd_tx (sameUnsent.trans hu) (sameRoom.trans hroom) hpoll, sameTx]
  · rw [encodeDiscrete_getLsbD, encodeDiscrete_getLsbD, ownGroup_after_setdb h ht]
    exact apply_ite not _ _ _

/-! ### Waiting -/

/-- With a reply begun and no room for its next byte, the wire side has no move (42_responder.md R120). -/
theorem wireAction_of_no_room {s : State} (hd : s.phase = .dispatch) (hu : s.unsent ≠ []) (full : s.txRoom = some 0) :
    wireAction s = none := by
  rw [wireAction_of_unsent hd hu, if_pos full]

theorem serialise_of_no_move {s : State} (hw : wireAction s = none) (hp : portAction s = none) :
    serialise s = .move s := by
  rw [serialise, hw, hp]

/-- Where neither side has a move, the step is a step to the same state (70_reset_and_hazards.md R180; log 12). -/
theorem step_of_no_move {s : State} (hr : s.resetReq = false) (hf : s.fault = false) (hw : wireAction s = none)
    (hp : s.port = []) : step s = .next s := by
  apply step_of_move
  rw [nextAction_eq_serialise hr hf, serialise_of_no_move hw (portAction_of_no_command hp)]

/-- A machine whose step leads back to its state stays there, however many steps it makes. -/
theorem core_run_of_step_eq_self {M : Host.Core} {s : M.State} (h : M.step s = .next s) (n : Nat) :
    M.run n s = .next s := by
  induction n with
  | zero => rfl
  | succ n ih => rw [core_run_succ_of_next h, ih]

/-- Settles O34: in neither waiting state has the wire side a move, so every step is to the same state. -/
theorem blockWaitsUnchanged : Obligations.BlockWaitsUnchanged := by
  intro n s hr hf hp idle
  have hw : wireAction s = none := by
    rcases idle with ⟨hphase, hx⟩ | ⟨hphase, hu, full⟩
    · exact wireAction_of_no_byte hphase hx
    · exact wireAction_of_no_room hphase hu full
  exact core_run_of_step_eq_self (M := Sys2Proof.core) (step_of_no_move hr hf hw hp) n

/-! ### Reset -/

/-- Settles O40: the next state is `resetEvent`, whose tables are zero and whose other fields are those of
`State.reset`. -/
theorem resetPutsStateToResetValues : Obligations.ResetPutsStateToResetValues := fun s hr =>
  ⟨resetEvent s, step_of_resetReq hr, resetEvent_readAnalog s, resetEvent_readGroup s, rfl, rfl, rfl, rfl, rfl, rfl⟩

end Sys2Proof.Machine
end

section
/-! PROOFS. The words of the test vectors (95_test_vectors.md V6, V8, V13 and programs P1, P2). -/

namespace Sys2Proof

theorem toCode?_eq_some {i : Instr} {c : Code} : i.toCode? = some c ↔ i.wellFormed = true ∧ encode i = c := by
  rw [Instr.toCode?, Option.ite_none_right_eq_some, Option.some_inj]

/-- A receiver reads back the operation that the sender presented. -/
theorem decode_of_toCode? {i : Instr} {c : Code} (sent : i.toCode? = some c) : decode c = i := by
  obtain ⟨wf, rfl⟩ := toCode?_eq_some.mp sent
  exact decodeOfEncodeIsTheInstruction i wf

/-- Settles O6: each word is the code that a sender presents for its operation, so it decodes to that operation. -/
theorem sampleWordsDecode : Obligations.SampleWordsDecode := by
  refine ⟨?rdd, ?rddInvalid, ?rda, ?seta, ?geta, ?setdb, ?getdg, ?setaBelowRange⟩
  all_goals
    apply decode_of_toCode?
    decide

end Sys2Proof
end
